-- ==== Sys2Proof/Word.lean ====
section
/-! DEFINITION. The word types of EDQ: the `u8`, `u16` and `u32` of spec/00_scope.md R11. -/

namespace Sys2Proof

/-- `u8`: one element of every host-addressable memory (20_memory.md R61). -/
abbrev Byte := BitVec 8

/-- `u16`: the width of the `WIDTH` and `HEIGHT` fields (00_scope.md R10, `DIM_BITS`). -/
abbrev Half := BitVec 16

/-- `u32`: a register, a command word, the data of a host transaction. -/
abbrev Word := BitVec 32

end Sys2Proof
end

