-- ==== Sys2Proof/Config.lean ====
section
/-! DEFINITION. The implementation parameters of spec/00_scope.md R10, as plain data: what is fixed for one
machine and may differ between machines. The values the spec gives them are in Machine/Params.lean. -/

namespace Sys2Proof

/-- The number format `F` (00_scope.md R10, R13): a value has at most `prec` significand bits and is an integer
multiple of `2^-qexp`. No greatest exponent is needed, because no value of any rule overflows (R16). -/
structure FFormat where
  /-- significand bits, the hidden bit included -/
  prec : Nat
  /-- the least positive value of the format is `2^-qexp` -/
  qexp : Nat
  deriving DecidableEq, Repr

/-- `TONE_ARITH` (00_scope.md R10, 40_tone_reducer.md R120, 93_implementation_defined.md Q4): the two candidate
evaluations of the luminance formula. -/
inductive ToneArith where
  /-- exact integer evaluation, EDQ's value -/
  | exact
  /-- evaluation in `F`, the three products summed left to right -/
  | float
  deriving DecidableEq, Repr

/-- One tap `(dx, dy, w)` of a kernel (00_scope.md R18): column offset, row offset, integer weight. -/
structure Tap where
  dx : Int
  dy : Nat
  w  : Nat
  deriving DecidableEq, Repr

/-- A diffusion kernel: its taps and its divisor (42_gray_error_diffusion.md R141). It carries no serpentine flag
(R148, 90_conflicts.md C1). -/
structure Kernel where
  taps : List Tap
  div  : Nat
  deriving DecidableEq, Repr

/-- The kernels the spec names. The gray kernel Jarvis-Judice-Ninke and the color kernel Jarvis are one table
(44_color_error_diffusion.md R187), as are the two spellings of Floyd-Steinberg (R185, 90_conflicts.md C6). -/
inductive KernelId where
  | floydSteinberg
  | falseFloydSteinberg
  | jarvis
  | stucki
  | atkinson
  | burkes
  | sierra
  | twoSierra
  | sierraLite
  deriving DecidableEq, Repr

/-- `KERNEL_TABLE` (00_scope.md R10): one kernel for each name. -/
structure KernelTable where
  floydSteinberg      : Kernel
  falseFloydSteinberg : Kernel
  jarvis              : Kernel
  stucki              : Kernel
  atkinson            : Kernel
  burkes              : Kernel
  sierra              : Kernel
  twoSierra           : Kernel
  sierraLite          : Kernel
  deriving DecidableEq, Repr

/-- The kernel a name stands for. -/
def KernelTable.get (t : KernelTable) : KernelId → Kernel
  | .floydSteinberg      => t.floydSteinberg
  | .falseFloydSteinberg => t.falseFloydSteinberg
  | .jarvis              => t.jarvis
  | .stucki              => t.stucki
  | .atkinson            => t.atkinson
  | .burkes              => t.burkes
  | .sierra              => t.sierra
  | .twoSierra           => t.twoSierra
  | .sierraLite          => t.sierraLite

/-- The parameters of one EDQ. -/
structure Config where
  /-- `MAXPIX`: capacity in pixels of each grid memory -/
  maxPix : Nat
  /-- `F` -/
  fmt : FFormat
  /-- `TONE_ARITH` -/
  toneArith : ToneArith
  /-- `ORD_DARK_IF_GREATER` -/
  ordDarkIfGreater : Bool
  /-- `KERNEL_TABLE` -/
  kernels : KernelTable
  deriving DecidableEq, Repr

/-- The shape every kernel table must have (44_color_error_diffusion.md R194, 93_implementation_defined.md Q5):
a tap on the current row lies ahead (`dx > 0`), no two taps share `(dx, dy)`, and the divisor is not zero
(00_scope.md R16). -/
def Kernel.wf (k : Kernel) : Bool :=
  decide (0 < k.div) && k.taps.all (fun t => decide (0 < t.dy) || decide (0 < t.dx))
    && decide ((k.taps.map fun t => (t.dx, t.dy)).Nodup)

/-- Every kernel of a table has the required shape. -/
def KernelTable.wf (t : KernelTable) : Bool :=
  t.floydSteinberg.wf && t.falseFloydSteinberg.wf && t.jarvis.wf && t.stucki.wf && t.atkinson.wf
    && t.burkes.wf && t.sierra.wf && t.twoSierra.wf && t.sierraLite.wf

/-- What 00_scope.md R10 and R13 require of the parameters: `1 <= MAXPIX <= 2^22`, a format that holds every
integer of magnitude at most `2^24` exactly, and kernels of the required shape. -/
def Config.wf (c : Config) : Bool :=
  decide (1 ≤ c.maxPix) && decide (c.maxPix ≤ 4194304) && decide (24 ≤ c.fmt.prec) && c.kernels.wf

end Sys2Proof
end

