-- ==== Sys2Proof/Machine/Float.lean ====
section
/-! DEFINITION. The number type `F` and its primitives (spec/00_scope.md R13 to R15). A value is held exactly, as a
whole number of the format's least positive value, so comparison is exact and every operation is an exact result
rounded once. There is no NaN, no infinity and no signed zero, because no rule produces or tells apart one (R16). -/

namespace Sys2Proof.Machine

/-- A value of type `F`: the real number `units * 2^-qexp` of the format in use. -/
structure FVal where
  units : Int
  deriving DecidableEq, Repr

/-- The number of units that make 1. -/
def unitOne (fmt : FFormat) : Nat := 2 ^ fmt.qexp

/-- `mag / den` to the nearest whole number, a tie to the even one. -/
def divNearestEven (mag den : Nat) : Nat :=
  let lo := mag / den
  let twice := 2 * (mag % den)
  if twice < den then lo
  else if den < twice then lo + 1
  else if lo % 2 = 0 then lo
  else lo + 1

/-- How many low bits of a value of `q` whole units the format cannot hold: the quantum is `2^dropped` units, and one
unit for subnormal values. -/
def droppedBits (fmt : FFormat) (q : Nat) : Nat := Nat.log2 q + 1 - fmt.prec

/-- The magnitude `mag / den` units, rounded once: to nearest, ties to even (R13). -/
def roundMagnitude (fmt : FFormat) (mag den : Nat) : Nat :=
  let quantum := 2 ^ droppedBits fmt (mag / den)
  divNearestEven mag (den * quantum) * quantum

/-- The exact value `num / den` units as a value of the format, rounded once (R13). -/
def roundF (fmt : FFormat) (num : Int) (den : Nat) : FVal :=
  if num < 0 then ⟨-(roundMagnitude fmt num.natAbs den : Int)⟩ else ⟨(roundMagnitude fmt num.natAbs den : Int)⟩

/-- `toF(n)` (R13): exact. -/
def toF (fmt : FFormat) (n : Int) : FVal := ⟨n * (unitOne fmt : Int)⟩

/-- `fadd(a, b)` (R13). -/
def fadd (fmt : FFormat) (a b : FVal) : FVal := roundF fmt (a.units + b.units) 1

/-- `fsub(a, b)` (R13). -/
def fsub (fmt : FFormat) (a b : FVal) : FVal := roundF fmt (a.units - b.units) 1

/-- `fmul(a, b)` (R13). -/
def fmul (fmt : FFormat) (a b : FVal) : FVal := roundF fmt (a.units * b.units) (unitOne fmt)

/-- `fdiv(a, b)` (R13). No rule divides by zero (R16). -/
def fdiv (fmt : FFormat) (a b : FVal) : FVal :=
  roundF fmt (a.units * (unitOne fmt : Int) * b.units.sign) b.units.natAbs

/-- `fgt(a, b)` (R13): exact comparison. -/
def fgt (a b : FVal) : Bool := decide (b.units < a.units)

/-- `flt(a, b)` (R13): exact comparison. -/
def flt (a b : FVal) : Bool := decide (a.units < b.units)

/-- `clampF(v)` (R14). -/
def clampF (fmt : FFormat) (v : FVal) : FVal :=
  if flt v (toF fmt 0) then toF fmt 0
  else if fgt v (toF fmt 255) then toF fmt 255
  else v

/-- `roundHAZ(v)` (R15): the nearest integer, a tie away from zero. -/
def roundHAZ (fmt : FFormat) (v : FVal) : Int :=
  let mag := v.units.natAbs
  let whole := mag / unitOne fmt
  let rounded := if 2 * (mag % unitOne fmt) < unitOne fmt then whole else whole + 1
  if v.units < 0 then -(rounded : Int) else (rounded : Int)

end Sys2Proof.Machine
end

