-- ==== Sys2Proof/Syntax.lean ====
section
/-! DEFINITION. The commands of EDQ: one constructor for each row of spec/opcode_table.json, with the operands the
row's format reads (spec/30_encoding.md R93). Rules are cited as file number and rule number. -/

namespace Sys2Proof

/-- A decoded command. `thr` and `levels` are the 8-bit immediates of 30_encoding.md R94. `npal` is the palette size
`NPAL = NPALM1 + 1`, the operand of the assembler syntax of R100 (1 to 16, WellFormed.lean). `inv` and `preinv` are
the single bits `INV` and `PREINV`. -/
inductive Instr where
  /-- `NOP`, 46 R220: no effect. -/
  | nop
  /-- `TONE`, 40 R121: Tone Reducer. -/
  | tone
  /-- `QTHR`, 41 R131: plain threshold. -/
  | qthr (thr : Byte)
  /-- `QORD`, 41 R132: ordered pattern. -/
  | qord (thr : Byte)
  /-- `QEDB.FS`, 42 R142: binary error diffusion. -/
  | qedbFs (thr : Byte)
  /-- `QEDB.JJN`, 42 R142: binary error diffusion. -/
  | qedbJjn (thr : Byte)
  /-- `QEDB.K2`, 42 R142: binary error diffusion, reserved kernel code (30 R95). -/
  | qedbK2 (thr : Byte)
  /-- `QEDB.K3`, 42 R142: binary error diffusion, reserved kernel code (30 R95). -/
  | qedbK3 (thr : Byte)
  /-- `QEDB.K4`, 42 R142: binary error diffusion, reserved kernel code (30 R95). -/
  | qedbK4 (thr : Byte)
  /-- `QEDB.K5`, 42 R142: binary error diffusion, reserved kernel code (30 R95). -/
  | qedbK5 (thr : Byte)
  /-- `QEDB.K6`, 42 R142: binary error diffusion, reserved kernel code (30 R95). -/
  | qedbK6 (thr : Byte)
  /-- `QEDB.K7`, 42 R142: binary error diffusion, reserved kernel code (30 R95). -/
  | qedbK7 (thr : Byte)
  /-- `QEDB.K8`, 42 R142: binary error diffusion, reserved kernel code (30 R95). -/
  | qedbK8 (thr : Byte)
  /-- `QEDB.K9`, 42 R142: binary error diffusion, reserved kernel code (30 R95). -/
  | qedbK9 (thr : Byte)
  /-- `QEDB.K10`, 42 R142: binary error diffusion, reserved kernel code (30 R95). -/
  | qedbK10 (thr : Byte)
  /-- `QEDB.K11`, 42 R142: binary error diffusion, reserved kernel code (30 R95). -/
  | qedbK11 (thr : Byte)
  /-- `QEDB.K12`, 42 R142: binary error diffusion, reserved kernel code (30 R95). -/
  | qedbK12 (thr : Byte)
  /-- `QEDB.K13`, 42 R142: binary error diffusion, reserved kernel code (30 R95). -/
  | qedbK13 (thr : Byte)
  /-- `QEDB.K14`, 42 R142: binary error diffusion, reserved kernel code (30 R95). -/
  | qedbK14 (thr : Byte)
  /-- `QEDB.K15`, 42 R142: binary error diffusion, reserved kernel code (30 R95). -/
  | qedbK15 (thr : Byte)
  /-- `QEDN.FS`, 42 R145: N-level error diffusion. -/
  | qednFs (levels : Byte)
  /-- `QEDN.JJN`, 42 R145: N-level error diffusion. -/
  | qednJjn (levels : Byte)
  /-- `QEDN.K2`, 42 R145: N-level error diffusion, reserved kernel code (30 R95). -/
  | qednK2 (levels : Byte)
  /-- `QEDN.K3`, 42 R145: N-level error diffusion, reserved kernel code (30 R95). -/
  | qednK3 (levels : Byte)
  /-- `QEDN.K4`, 42 R145: N-level error diffusion, reserved kernel code (30 R95). -/
  | qednK4 (levels : Byte)
  /-- `QEDN.K5`, 42 R145: N-level error diffusion, reserved kernel code (30 R95). -/
  | qednK5 (levels : Byte)
  /-- `QEDN.K6`, 42 R145: N-level error diffusion, reserved kernel code (30 R95). -/
  | qednK6 (levels : Byte)
  /-- `QEDN.K7`, 42 R145: N-level error diffusion, reserved kernel code (30 R95). -/
  | qednK7 (levels : Byte)
  /-- `QEDN.K8`, 42 R145: N-level error diffusion, reserved kernel code (30 R95). -/
  | qednK8 (levels : Byte)
  /-- `QEDN.K9`, 42 R145: N-level error diffusion, reserved kernel code (30 R95). -/
  | qednK9 (levels : Byte)
  /-- `QEDN.K10`, 42 R145: N-level error diffusion, reserved kernel code (30 R95). -/
  | qednK10 (levels : Byte)
  /-- `QEDN.K11`, 42 R145: N-level error diffusion, reserved kernel code (30 R95). -/
  | qednK11 (levels : Byte)
  /-- `QEDN.K12`, 42 R145: N-level error diffusion, reserved kernel code (30 R95). -/
  | qednK12 (levels : Byte)
  /-- `QEDN.K13`, 42 R145: N-level error diffusion, reserved kernel code (30 R95). -/
  | qednK13 (levels : Byte)
  /-- `QEDN.K14`, 42 R145: N-level error diffusion, reserved kernel code (30 R95). -/
  | qednK14 (levels : Byte)
  /-- `QEDN.K15`, 42 R145: N-level error diffusion, reserved kernel code (30 R95). -/
  | qednK15 (levels : Byte)
  /-- `QPAL.NONE`, 43 R174: plain palette matcher. -/
  | qpalNone (npal : Nat) (preinv : Bool)
  /-- `QPAL.FS`, 44 R183: palette error diffusion. -/
  | qpalFs (npal : Nat) (preinv : Bool)
  /-- `QPAL.FFS`, 44 R183: palette error diffusion. -/
  | qpalFfs (npal : Nat) (preinv : Bool)
  /-- `QPAL.JARVIS`, 44 R183: palette error diffusion. -/
  | qpalJarvis (npal : Nat) (preinv : Bool)
  /-- `QPAL.STUCKI`, 44 R183: palette error diffusion. -/
  | qpalStucki (npal : Nat) (preinv : Bool)
  /-- `QPAL.ATKINSON`, 44 R183: palette error diffusion. -/
  | qpalAtkinson (npal : Nat) (preinv : Bool)
  /-- `QPAL.BURKES`, 44 R183: palette error diffusion. -/
  | qpalBurkes (npal : Nat) (preinv : Bool)
  /-- `QPAL.SIERRA`, 44 R183: palette error diffusion. -/
  | qpalSierra (npal : Nat) (preinv : Bool)
  /-- `QPAL.TWOSIERRA`, 44 R183: palette error diffusion. -/
  | qpalTwosierra (npal : Nat) (preinv : Bool)
  /-- `QPAL.SIERRALITE`, 44 R183: palette error diffusion. -/
  | qpalSierralite (npal : Nat) (preinv : Bool)
  /-- `QPAL.K10`, 44 R183: palette error diffusion, reserved kernel code (30 R96). -/
  | qpalK10 (npal : Nat) (preinv : Bool)
  /-- `QPAL.K11`, 44 R183: palette error diffusion, reserved kernel code (30 R96). -/
  | qpalK11 (npal : Nat) (preinv : Bool)
  /-- `QPAL.K12`, 44 R183: palette error diffusion, reserved kernel code (30 R96). -/
  | qpalK12 (npal : Nat) (preinv : Bool)
  /-- `QPAL.K13`, 44 R183: palette error diffusion, reserved kernel code (30 R96). -/
  | qpalK13 (npal : Nat) (preinv : Bool)
  /-- `QPAL.K14`, 44 R183: palette error diffusion, reserved kernel code (30 R96). -/
  | qpalK14 (npal : Nat) (preinv : Bool)
  /-- `QPAL.K15`, 44 R183: palette error diffusion, reserved kernel code (30 R96). -/
  | qpalK15 (npal : Nat) (preinv : Bool)
  /-- `RESERVED.OP7`, 30 R97, 60 R236: reserved opcode. -/
  | reservedOp7
  /-- `PACK1`, 45 R202: 1 bpp packer. -/
  | pack1 (inv : Bool)
  /-- `PACK2`, 45 R203: 2 bpp packer. -/
  | pack2
  /-- `PACK3`, 45 R204: 3 bpp packer. -/
  | pack3
  /-- `PACK4`, 45 R205: 4 bpp packer. -/
  | pack4 (inv : Bool)
  /-- `RESERVED.OP12`, 30 R97, 60 R236: reserved opcode. -/
  | reservedOp12
  /-- `RESERVED.OP13`, 30 R97, 60 R236: reserved opcode. -/
  | reservedOp13
  /-- `RESERVED.OP14`, 30 R97, 60 R236: reserved opcode. -/
  | reservedOp14
  /-- `RESERVED.OP15`, 30 R97, 60 R236: reserved opcode. -/
  | reservedOp15
  deriving DecidableEq, Repr

end Sys2Proof
end

