-- ==== Sys2Proof/WellFormed.lean ====
section
/-! DEFINITION. Which commands can be written: the operand ranges of spec/30_encoding.md R94 and R100 that the
operand's type does not already give. `thr` and `levels` are `u8` by type, and `inv` and `preinv` are bits by type. -/

namespace Sys2Proof

/-- `1 <= npal <= 16` (30_encoding.md R94, R100): no empty palette and no palette above `PAL_MAX` can be encoded. -/
def npalOk (npal : Nat) : Bool :=
  decide (1 ≤ npal) && decide (npal ≤ 16)

/-- A well-formed command: every operand is one the encoding admits. -/
def Instr.wf : Instr → Bool
  | .nop => true
  | .tone => true
  | .qthr _ => true
  | .qord _ => true
  | .qedbFs _ => true
  | .qedbJjn _ => true
  | .qedbK2 _ => true
  | .qedbK3 _ => true
  | .qedbK4 _ => true
  | .qedbK5 _ => true
  | .qedbK6 _ => true
  | .qedbK7 _ => true
  | .qedbK8 _ => true
  | .qedbK9 _ => true
  | .qedbK10 _ => true
  | .qedbK11 _ => true
  | .qedbK12 _ => true
  | .qedbK13 _ => true
  | .qedbK14 _ => true
  | .qedbK15 _ => true
  | .qednFs _ => true
  | .qednJjn _ => true
  | .qednK2 _ => true
  | .qednK3 _ => true
  | .qednK4 _ => true
  | .qednK5 _ => true
  | .qednK6 _ => true
  | .qednK7 _ => true
  | .qednK8 _ => true
  | .qednK9 _ => true
  | .qednK10 _ => true
  | .qednK11 _ => true
  | .qednK12 _ => true
  | .qednK13 _ => true
  | .qednK14 _ => true
  | .qednK15 _ => true
  | .qpalNone npal _ => npalOk npal
  | .qpalFs npal _ => npalOk npal
  | .qpalFfs npal _ => npalOk npal
  | .qpalJarvis npal _ => npalOk npal
  | .qpalStucki npal _ => npalOk npal
  | .qpalAtkinson npal _ => npalOk npal
  | .qpalBurkes npal _ => npalOk npal
  | .qpalSierra npal _ => npalOk npal
  | .qpalTwosierra npal _ => npalOk npal
  | .qpalSierralite npal _ => npalOk npal
  | .qpalK10 npal _ => npalOk npal
  | .qpalK11 npal _ => npalOk npal
  | .qpalK12 npal _ => npalOk npal
  | .qpalK13 npal _ => npalOk npal
  | .qpalK14 npal _ => npalOk npal
  | .qpalK15 npal _ => npalOk npal
  | .reservedOp7 => true
  | .pack1 _ => true
  | .pack2 => true
  | .pack3 => true
  | .pack4 _ => true
  | .reservedOp12 => true
  | .reservedOp13 => true
  | .reservedOp14 => true
  | .reservedOp15 => true

end Sys2Proof
end

