-- ==== Sys2Proof/Decode.lean ====
section
/-! DEFINITION. The command word: bit fields, byte order, the decoder (spec/30_encoding.md R90 to R99, R102) and the
encoder (R91 to R96, R100). -/

namespace Sys2Proof

/-! ## Byte order (20_memory.md R65) -/

/-- The four bytes of a word in address order: bits 7:0 first. -/
def wordBytes (w : Word) : List Byte :=
  [w.extractLsb' 0 8, w.extractLsb' 8 8, w.extractLsb' 16 8, w.extractLsb' 24 8]

/-- The word assembled from four bytes in address order. -/
def wordOfBytes (b0 b1 b2 b3 : Byte) : Word := b3 ++ b2 ++ b1 ++ b0

/-! ## Fields (R91) -/

/-- `OP = c[3:0]`. -/
def opField (c : Word) : BitVec 4 := c.extractLsb' 0 4
/-- `KSEL = c[7:4]`. -/
def kselField (c : Word) : BitVec 4 := c.extractLsb' 4 4
/-- `IMM8 = c[15:8]`: `THR` or `LEVELS` (R94). -/
def imm8Field (c : Word) : Byte := c.extractLsb' 8 8
/-- `NPALM1 = c[11:8]` (R94). -/
def npalm1Field (c : Word) : BitVec 4 := c.extractLsb' 8 4
/-- `INV = c[16]`. -/
def invField (c : Word) : Bool := c.getLsbD 16
/-- `PREINV = c[17]`. -/
def preinvField (c : Word) : Bool := c.getLsbD 17

/-! ## Kernel codes -/

/-- The `QEDB` row of a `KSEL` value (R95). -/
def qedbOf (ksel : BitVec 4) (thr : Byte) : Instr :=
  match ksel.toNat with
  | 0 => .qedbFs thr
  | 1 => .qedbJjn thr
  | 2 => .qedbK2 thr
  | 3 => .qedbK3 thr
  | 4 => .qedbK4 thr
  | 5 => .qedbK5 thr
  | 6 => .qedbK6 thr
  | 7 => .qedbK7 thr
  | 8 => .qedbK8 thr
  | 9 => .qedbK9 thr
  | 10 => .qedbK10 thr
  | 11 => .qedbK11 thr
  | 12 => .qedbK12 thr
  | 13 => .qedbK13 thr
  | 14 => .qedbK14 thr
  | _ => .qedbK15 thr

/-- The `QEDN` row of a `KSEL` value (R95). -/
def qednOf (ksel : BitVec 4) (levels : Byte) : Instr :=
  match ksel.toNat with
  | 0 => .qednFs levels
  | 1 => .qednJjn levels
  | 2 => .qednK2 levels
  | 3 => .qednK3 levels
  | 4 => .qednK4 levels
  | 5 => .qednK5 levels
  | 6 => .qednK6 levels
  | 7 => .qednK7 levels
  | 8 => .qednK8 levels
  | 9 => .qednK9 levels
  | 10 => .qednK10 levels
  | 11 => .qednK11 levels
  | 12 => .qednK12 levels
  | 13 => .qednK13 levels
  | 14 => .qednK14 levels
  | _ => .qednK15 levels

/-- The `QPAL` row of a `KSEL` value (R96). -/
def qpalOf (ksel : BitVec 4) (npal : Nat) (preinv : Bool) : Instr :=
  match ksel.toNat with
  | 0 => .qpalNone npal preinv
  | 1 => .qpalFs npal preinv
  | 2 => .qpalFfs npal preinv
  | 3 => .qpalJarvis npal preinv
  | 4 => .qpalStucki npal preinv
  | 5 => .qpalAtkinson npal preinv
  | 6 => .qpalBurkes npal preinv
  | 7 => .qpalSierra npal preinv
  | 8 => .qpalTwosierra npal preinv
  | 9 => .qpalSierralite npal preinv
  | 10 => .qpalK10 npal preinv
  | 11 => .qpalK11 npal preinv
  | 12 => .qpalK12 npal preinv
  | 13 => .qpalK13 npal preinv
  | 14 => .qpalK14 npal preinv
  | _ => .qpalK15 npal preinv

/-! ## Decoder -/

/-- Decoding is a total function of the 32-bit word (R102, opcode map R92). The five reserved opcodes (R97) are
commands of their own here, as they are rows of the opcode table. Bits a format does not read are ignored (R98). -/
def decodeWord (c : Word) : Instr :=
  match (opField c).toNat with
  | 0 => .nop
  | 1 => .tone
  | 2 => .qthr (imm8Field c)
  | 3 => .qord (imm8Field c)
  | 4 => qedbOf (kselField c) (imm8Field c)
  | 5 => qednOf (kselField c) (imm8Field c)
  | 6 => qpalOf (kselField c) ((npalm1Field c).toNat + 1) (preinvField c)
  | 7 => .reservedOp7
  | 8 => .pack1 (invField c)
  | 9 => .pack2
  | 10 => .pack3
  | 11 => .pack4 (invField c)
  | 12 => .reservedOp12
  | 13 => .reservedOp13
  | 14 => .reservedOp14
  | _ => .reservedOp15

/-- Why a list of bytes is no command. -/
inductive DecodeError where
  /-- fewer than the four bytes every command has (R90, R99) -/
  | truncated
  deriving DecidableEq, Repr

/-- Decoding the bytes of a command as the host port carries them, lowest address first: the command and the bytes
after it. -/
def decode : List Byte → Except DecodeError (Instr × List Byte)
  | b0 :: b1 :: b2 :: b3 :: rest => .ok (decodeWord (wordOfBytes b0 b1 b2 b3), rest)
  | _ => .error .truncated

/-! ## Encoder (R91, R93; ignored bits 0, R98) -/

/-- Format N: only `OP`. -/
def formatN (op : BitVec 4) : Word := 0#28 ++ op
/-- Format T: `OP` and `THR`. -/
def formatT (op : BitVec 4) (imm8 : Byte) : Word := 0#16 ++ imm8 ++ 0#4 ++ op
/-- Format K: `OP`, `KSEL` and `IMM8`. -/
def formatK (op ksel : BitVec 4) (imm8 : Byte) : Word := 0#16 ++ imm8 ++ ksel ++ op
/-- Format P, `OP = 6`: `KSEL`, `NPALM1 = npal - 1` and `PREINV`. -/
def formatP (ksel : BitVec 4) (npal : Nat) (preinv : Bool) : Word :=
  0#14 ++ BitVec.ofBool preinv ++ 0#5 ++ BitVec.ofNat 4 (npal - 1) ++ ksel ++ 6#4
/-- Format I: `OP` and `INV`. -/
def formatI (op : BitVec 4) (inv : Bool) : Word := 0#15 ++ BitVec.ofBool inv ++ 0#12 ++ op

/-- The command word of a command, ignored bits 0 (R98, R100). -/
def encode : Instr → Word
  | .nop => formatN 0
  | .tone => formatN 1
  | .qthr thr => formatT 2 thr
  | .qord thr => formatT 3 thr
  | .qedbFs thr => formatK 4 0 thr
  | .qedbJjn thr => formatK 4 1 thr
  | .qedbK2 thr => formatK 4 2 thr
  | .qedbK3 thr => formatK 4 3 thr
  | .qedbK4 thr => formatK 4 4 thr
  | .qedbK5 thr => formatK 4 5 thr
  | .qedbK6 thr => formatK 4 6 thr
  | .qedbK7 thr => formatK 4 7 thr
  | .qedbK8 thr => formatK 4 8 thr
  | .qedbK9 thr => formatK 4 9 thr
  | .qedbK10 thr => formatK 4 10 thr
  | .qedbK11 thr => formatK 4 11 thr
  | .qedbK12 thr => formatK 4 12 thr
  | .qedbK13 thr => formatK 4 13 thr
  | .qedbK14 thr => formatK 4 14 thr
  | .qedbK15 thr => formatK 4 15 thr
  | .qednFs levels => formatK 5 0 levels
  | .qednJjn levels => formatK 5 1 levels
  | .qednK2 levels => formatK 5 2 levels
  | .qednK3 levels => formatK 5 3 levels
  | .qednK4 levels => formatK 5 4 levels
  | .qednK5 levels => formatK 5 5 levels
  | .qednK6 levels => formatK 5 6 levels
  | .qednK7 levels => formatK 5 7 levels
  | .qednK8 levels => formatK 5 8 levels
  | .qednK9 levels => formatK 5 9 levels
  | .qednK10 levels => formatK 5 10 levels
  | .qednK11 levels => formatK 5 11 levels
  | .qednK12 levels => formatK 5 12 levels
  | .qednK13 levels => formatK 5 13 levels
  | .qednK14 levels => formatK 5 14 levels
  | .qednK15 levels => formatK 5 15 levels
  | .qpalNone npal preinv => formatP 0 npal preinv
  | .qpalFs npal preinv => formatP 1 npal preinv
  | .qpalFfs npal preinv => formatP 2 npal preinv
  | .qpalJarvis npal preinv => formatP 3 npal preinv
  | .qpalStucki npal preinv => formatP 4 npal preinv
  | .qpalAtkinson npal preinv => formatP 5 npal preinv
  | .qpalBurkes npal preinv => formatP 6 npal preinv
  | .qpalSierra npal preinv => formatP 7 npal preinv
  | .qpalTwosierra npal preinv => formatP 8 npal preinv
  | .qpalSierralite npal preinv => formatP 9 npal preinv
  | .qpalK10 npal preinv => formatP 10 npal preinv
  | .qpalK11 npal preinv => formatP 11 npal preinv
  | .qpalK12 npal preinv => formatP 12 npal preinv
  | .qpalK13 npal preinv => formatP 13 npal preinv
  | .qpalK14 npal preinv => formatP 14 npal preinv
  | .qpalK15 npal preinv => formatP 15 npal preinv
  | .reservedOp7 => formatN 7
  | .pack1 inv => formatI 8 inv
  | .pack2 => formatN 9
  | .pack3 => formatN 10
  | .pack4 inv => formatI 11 inv
  | .reservedOp12 => formatN 12
  | .reservedOp13 => formatN 13
  | .reservedOp14 => formatN 14
  | .reservedOp15 => formatN 15

/-- The bytes of the command word, lowest address first. -/
def encodeBytes (i : Instr) : List Byte := wordBytes (encode i)

/-! ## The opcode table's numbering -/

/-- The command word of a table word: every bit above `nbits` is 0. -/
def tableWord (nbits w : Nat) : Word := BitVec.ofNat 32 (w % 2 ^ nbits)

/-- The command the decoder reads from a table word `w` of `nbits` bits. -/
def decodeTableWord (nbits w : Nat) : Option Instr :=
  if 32 < nbits then none
  else
    match decode (wordBytes (tableWord nbits w)) with
    | .ok (i, _) => some i
    | .error _ => none

end Sys2Proof
end

