-- ==== Sys2Proof/Machine/Params.lean ====
section
/-! DEFINITION. The values the spec gives the implementation parameters (spec/00_scope.md R10): the kernel tables of
42_gray_error_diffusion.md R146, R147 and 44_color_error_diffusion.md R185 to R193, the number formats, the
identification constant, and the configuration of the machine State.reset describes. -/

namespace Sys2Proof.Machine

/-- `ID_VALUE` (10_state.md R27): the bytes "EDQ1" from the most significant byte down. -/
def idValue : Word := 0x45445131#32

/-- `PAL_MAX` (00_scope.md R10): palette entries the palette RAM holds. -/
def palMax : Nat := 16

/-- IEEE 754 binary64 (00_scope.md R10, R13): 53 significand bits, least positive value `2^-1074`. The format's own
numbers are from the standard (93_implementation_defined.md G2). -/
def binary64 : FFormat := { prec := 53, qexp := 1074 }

/-- IEEE 754 binary32, the other format 93_implementation_defined.md Q3 names. -/
def binary32 : FFormat := { prec := 24, qexp := 149 }

/-- 42 R146 and 44 R185. -/
def kernelFloydSteinberg : Kernel where
  taps := [⟨1, 0, 7⟩, ⟨-1, 1, 3⟩, ⟨0, 1, 5⟩, ⟨1, 1, 1⟩]
  div := 16

/-- 44 R186. -/
def kernelFalseFloydSteinberg : Kernel where
  taps := [⟨1, 0, 3⟩, ⟨0, 1, 3⟩, ⟨1, 1, 2⟩]
  div := 8

/-- 42 R147 (Jarvis-Judice-Ninke) and 44 R187 (Jarvis). -/
def kernelJarvis : Kernel where
  taps := [⟨1, 0, 7⟩, ⟨2, 0, 5⟩,
           ⟨-2, 1, 3⟩, ⟨-1, 1, 5⟩, ⟨0, 1, 7⟩, ⟨1, 1, 5⟩, ⟨2, 1, 3⟩,
           ⟨-2, 2, 1⟩, ⟨-1, 2, 3⟩, ⟨0, 2, 5⟩, ⟨1, 2, 3⟩, ⟨2, 2, 1⟩]
  div := 48

/-- 44 R188. -/
def kernelStucki : Kernel where
  taps := [⟨1, 0, 8⟩, ⟨2, 0, 4⟩,
           ⟨-2, 1, 2⟩, ⟨-1, 1, 4⟩, ⟨0, 1, 8⟩, ⟨1, 1, 4⟩, ⟨2, 1, 2⟩,
           ⟨-2, 2, 1⟩, ⟨-1, 2, 2⟩, ⟨0, 2, 4⟩, ⟨1, 2, 2⟩, ⟨2, 2, 1⟩]
  div := 42

/-- 44 R189. The weights sum to 6, less than the divisor. -/
def kernelAtkinson : Kernel where
  taps := [⟨1, 0, 1⟩, ⟨2, 0, 1⟩, ⟨-1, 1, 1⟩, ⟨0, 1, 1⟩, ⟨1, 1, 1⟩, ⟨0, 2, 1⟩]
  div := 8

/-- 44 R190. -/
def kernelBurkes : Kernel where
  taps := [⟨1, 0, 8⟩, ⟨2, 0, 4⟩,
           ⟨-2, 1, 2⟩, ⟨-1, 1, 4⟩, ⟨0, 1, 8⟩, ⟨1, 1, 4⟩, ⟨2, 1, 2⟩]
  div := 32

/-- 44 R191. -/
def kernelSierra : Kernel where
  taps := [⟨1, 0, 5⟩, ⟨2, 0, 3⟩,
           ⟨-2, 1, 2⟩, ⟨-1, 1, 4⟩, ⟨0, 1, 5⟩, ⟨1, 1, 4⟩, ⟨2, 1, 2⟩,
           ⟨-1, 2, 2⟩, ⟨0, 2, 3⟩, ⟨1, 2, 2⟩]
  div := 32

/-- 44 R192. -/
def kernelTwoSierra : Kernel where
  taps := [⟨1, 0, 4⟩, ⟨2, 0, 3⟩,
           ⟨-2, 1, 1⟩, ⟨-1, 1, 2⟩, ⟨0, 1, 3⟩, ⟨1, 1, 2⟩, ⟨2, 1, 1⟩]
  div := 16

/-- 44 R193. -/
def kernelSierraLite : Kernel where
  taps := [⟨1, 0, 2⟩, ⟨-1, 1, 1⟩, ⟨0, 1, 1⟩]
  div := 4

/-- `KERNEL_TABLE`. Seven of the tables are the published matrices of their names (93_implementation_defined.md G1,
91_not_in_source.md N1). -/
def publishedKernels : KernelTable where
  floydSteinberg      := kernelFloydSteinberg
  falseFloydSteinberg := kernelFalseFloydSteinberg
  jarvis              := kernelJarvis
  stucki              := kernelStucki
  atkinson            := kernelAtkinson
  burkes              := kernelBurkes
  sierra              := kernelSierra
  twoSierra           := kernelTwoSierra
  sierraLite          := kernelSierraLite

/-- The EDQ of the spec (00_scope.md R10). `MAXPIX` is OPEN there: `2^22`, the largest capacity the spec admits, is a
DESIGN CHOICE (log 3, unsafe for a statement about the reset machine alone); every statement over all states holds
for every capacity. -/
def edqConfig : Config where
  maxPix := 4194304
  fmt := binary64
  toneArith := .exact
  ordDarkIfGreater := true
  kernels := publishedKernels

end Sys2Proof.Machine
end

