-- ==== Sys2Proof/Machine/State.lean ====
section
/-! DEFINITION. The state of EDQ (spec/10_state.md, 20_memory.md), the transactions its host can issue
(20_memory.md R66, R67, 70_reset_and_hazards.md R260), the reasons a step can stop, and the state after reset. -/

namespace Sys2Proof.Machine

/-- The widths of a host access: `n` in {1, 2, 4} (20_memory.md R66, R67). -/
inductive AccessWidth where
  | byte
  | half
  | word
  deriving DecidableEq, Repr

/-- What the host can do to EDQ. An address is a byte offset from the block base (20_memory.md R64). -/
inductive HostOp where
  /-- `MemRead(addr, n)` (20_memory.md R66) -/
  | read (addr : Nat) (width : AccessWidth)
  /-- `MemWrite(addr, n, v)` (20_memory.md R67) -/
  | write (addr : Nat) (width : AccessWidth) (data : Word)
  /-- asserting and releasing `rst` between two transactions (70_reset_and_hazards.md R260) -/
  | reset
  deriving DecidableEq, Repr

/-- What the host port answered to the last transaction (20_memory.md R66, R67, R69). The MODEL's own field (log 5). -/
inductive Response where
  /-- no transaction since reset -/
  | none
  /-- a read completed with this data, in the low bits for a narrow access (20_memory.md R65) -/
  | readData (data : Word)
  /-- a write completed normally -/
  | writeDone
  /-- error response (20_memory.md R69) -/
  | busError
  deriving DecidableEq, Repr

/-- `STATUS` (10_state.md R29). Bits 3:2 and 31:8 are no state: they read 0 and ignore writes. -/
structure Status where
  /-- bit 0 -/
  fault : Bool
  /-- bit 1 -/
  illop : Bool
  /-- bits 7:4 -/
  cause : BitVec 4
  deriving DecidableEq, Repr

/-- The six host-addressable memories (20_memory.md R60), as the bytes that have been written: keys are byte offsets
from the block base (R64), strictly rising (`Memory.wf`). -/
abbrev Memory := List Host.Cell

/-- Why a step can stop with a fault. EDQ's own fault `LEVELS_LT_2` is none of these: it is a next state
(60_exceptions.md R233). -/
inductive Fault where
  /-- Raised by a command or a host read that reads a memory element nothing has written since power-up
  (10_state.md R44, 70_reset_and_hazards.md R265, 93_implementation_defined.md U3). Safe: the hardware goes on with an
  unspecified value (log 2). -/
  | unwrittenElement
  deriving DecidableEq, Repr

/-- Why a step can refuse. -/
inductive Refusal where
  /-- Answered by an arm of `exec` that has no meaning yet, with the table's mnemonic. Safe. -/
  | notModelled (mnemonic : String)
  /-- Answered by a command other than `NOP` and the reserved opcodes when `WIDTH * HEIGHT > MAXPIX`
  (70_reset_and_hazards.md R263, 93_implementation_defined.md U1: undefined results, a model should refuse).
  Safe (log 7). -/
  | gridExceedsCapacity
  deriving DecidableEq, Repr

/-- The machine. Every field but `cfg`, `pending`, `busData` and `response` is state the spec names. `ID` is
hard-wired and `CMD` stores nothing (10_state.md R27, R28), so neither has a field. The working buffer and the scan
position are local to a pass (R21, R36). -/
structure State where
  /-- the implementation parameters (00_scope.md R10); no step changes them (log 3) -/
  cfg : Config
  /-- `WIDTH[15:0]` (10_state.md R24) -/
  width : Half
  /-- `HEIGHT[15:0]` (R25) -/
  height : Half
  /-- `MODEID` (R26) -/
  modeId : Word
  /-- `STATUS` (R29) -/
  status : Status
  /-- `FAULTCMD` (R37) -/
  faultCmd : Word
  /-- `RES_WIDTH[15:0]` (R38) -/
  resWidth : Half
  /-- `RES_HEIGHT[15:0]` (R38) -/
  resHeight : Half
  /-- `RES_BPP[2:0]` (R38) -/
  resBpp : BitVec 3
  /-- `RES_MODEID` (R38) -/
  resModeId : Word
  /-- `RES_LEN` (R38) -/
  resLen : Word
  /-- `SRC`, `GRAY`, `PAL`, `IDX`, `PREV`, `PBUF` (R30 to R35) -/
  mem : Memory
  /-- what the host will do next, oldest first; the MODEL's own (log 1) -/
  pending : List HostOp
  /-- the write data on the bus while a `CMD` write is in progress, else 0; the MODEL's own (log 4) -/
  busData : Word
  /-- the answer to the last transaction; the MODEL's own (log 5) -/
  response : Response
  deriving DecidableEq, Repr

/-- The machine right after reset from power-up (10_state.md R43): every register at its reset value, no memory
element written, the engine idle. `ID` reads `0x45445131` (Ops.lean). The host has issued nothing (log 1). -/
def State.reset : State where
  cfg := edqConfig
  width := 0
  height := 0
  modeId := 0
  status := { fault := false, illop := false, cause := 0 }
  faultCmd := 0
  resWidth := 0
  resHeight := 0
  resBpp := 0
  resModeId := 0
  resLen := 0
  mem := []
  pending := []
  busData := 0
  response := .none

end Sys2Proof.Machine
end

