-- ==== Sys2Proof/Machine/Flags.lean ====
section
/-! DEFINITION. `STATUS` as software sees it (spec/10_state.md R29, R39): how the word is read, what a write of it
does, and how a reserved opcode sets `ILLOP`. EDQ has no arithmetic flag. -/

namespace Sys2Proof.Machine

/-- The word a read of `STATUS` returns: `CAUSE` in bits 7:4, `ILLOP` in bit 1, `FAULT` in bit 0, every other bit 0
(10_state.md R29). -/
def Status.word (st : Status) : Word :=
  0#24 ++ st.cause ++ 0#2 ++ BitVec.ofBool st.illop ++ BitVec.ofBool st.fault

/-- A write of `STATUS`: bit 1 set clears `ILLOP`, every other written bit is ignored (10_state.md R29). -/
def Status.afterWrite (st : Status) (v : Word) : Status :=
  if v.getLsbD 1 then { st with illop := false } else st

/-- A reserved opcode: `STATUS.ILLOP <- 1` and nothing else (60_exceptions.md R236). -/
def State.setIllop (s : State) : State :=
  { s with status := { s.status with illop := true } }

end Sys2Proof.Machine
end

