-- ==== Sys2Proof/Machine/Ops.lean ====
section
/-! DEFINITION. The named operations over memory and registers (spec/20_memory.md, 10_state.md), fault entry
(60_exceptions.md R233) and reset, the only way back (R235, 70_reset_and_hazards.md R260). -/

namespace Sys2Proof.Machine

/-- What a command or a step answers. -/
abbrev Result := Host.Outcome State Fault Refusal

/-! ## One byte of memory -/

/-- What an address nothing has written reads as: no value (10_state.md R44, log 2). -/
def Memory.unlisted : Option Byte := none

/-- The byte at an address. -/
def Memory.read : Memory → Nat → Option Byte
  | [], _ => Memory.unlisted
  | (a', b) :: m, a => if a = a' then some b else Memory.read m a

/-- Writing one byte, at its place in the rising order of addresses. -/
def Memory.write : Memory → Nat → Byte → Memory
  | [], a, b => [(a, b)]
  | (a', b') :: m, a, b =>
    if a < a' then (a, b) :: (a', b') :: m
    else if a = a' then (a, b) :: m
    else (a', b') :: Memory.write m a b

/-- The canonical form: addresses strictly rising. No entry can equal what an unlisted address reads as, since that is
no value at all. -/
abbrev Memory.wf (m : Memory) : Prop := m.Pairwise (fun p q => p.1 < q.1)

/-- Writing bytes at consecutive addresses. -/
def Memory.writeBytes (m : Memory) (a : Nat) : List Byte → Memory
  | [] => m
  | b :: bs => (m.write a b).writeBytes (a + 1) bs

/-- The bytes at `n` consecutive addresses, if each has been written. -/
def Memory.readBytes (m : Memory) (a : Nat) : Nat → Option (List Byte)
  | 0 => some []
  | n + 1 =>
    match m.read a, m.readBytes (a + 1) n with
    | some b, some bs => some (b :: bs)
    | _, _ => none

/-! ## Address map (20_memory.md R64) -/

/-- The memories, each a window of the map. -/
inductive Window where
  | pal
  | src
  | gray
  | idx
  | prev
  | pbuf
  deriving DecidableEq, Repr

/-- Every window. -/
def Window.all : List Window := [.pal, .src, .gray, .idx, .prev, .pbuf]

/-- The offset of a window's first byte (R64). -/
def Window.base : Window → Nat
  | .pal => 0x100
  | .src => 0x01000000
  | .gray => 0x02000000
  | .idx => 0x03000000
  | .prev => 0x04000000
  | .pbuf => 0x05000000

/-- The bytes a window holds (R60): 16 four-byte palette entries, `MAXPIX` elements of four bytes or of one. -/
def Window.size (maxPix : Nat) : Window → Nat
  | .pal => 4 * palMax
  | .src | .prev => 4 * maxPix
  | .gray | .idx | .pbuf => maxPix

/-- The `n` bytes at `a` lie in window `w`. -/
def Window.holds (maxPix : Nat) (w : Window) (a n : Nat) : Bool :=
  decide (w.base ≤ a) && decide (a + n ≤ w.base + w.size maxPix)

/-- The `n` bytes at `a` lie in one window. -/
def inWindow (maxPix a n : Nat) : Bool := Window.all.any fun w => w.holds maxPix a n

/-- The byte address of channel `c` (0 `R`, 1 `G`, 2 `B`, 3 `A`) of element `i` of a four-channel memory (R63). -/
def chanAddr (w : Window) (i c : Nat) : Nat := w.base + 4 * i + c

/-- The byte address of element `i` of a one-byte memory. -/
def elemAddr (w : Window) (i : Nat) : Nat := w.base + i

/-! ## Registers (10_state.md R22, R23) -/

/-- The twelve registers. -/
inductive Reg where
  | id
  | width
  | height
  | modeId
  | cmd
  | status
  | faultCmd
  | resWidth
  | resHeight
  | resBpp
  | resModeId
  | resLen
  deriving DecidableEq, Repr

/-- The register at a byte offset (R22). Offsets `0x1C` and `0x34` to `0xFF` hold none. -/
def regAt (a : Nat) : Option Reg :=
  match a with
  | 0x00 => some .id
  | 0x04 => some .width
  | 0x08 => some .height
  | 0x0C => some .modeId
  | 0x10 => some .cmd
  | 0x14 => some .status
  | 0x18 => some .faultCmd
  | 0x20 => some .resWidth
  | 0x24 => some .resHeight
  | 0x28 => some .resBpp
  | 0x2C => some .resModeId
  | 0x30 => some .resLen
  | _ => none

/-- A register read (R23): unused bits read 0, `ID` reads its constant, `CMD` reads 0. -/
def State.readReg (s : State) : Reg → Word
  | .id => idValue
  | .width => s.width.setWidth 32
  | .height => s.height.setWidth 32
  | .modeId => s.modeId
  | .cmd => 0
  | .status => s.status.word
  | .faultCmd => s.faultCmd
  | .resWidth => s.resWidth.setWidth 32
  | .resHeight => s.resHeight.setWidth 32
  | .resBpp => s.resBpp.setWidth 32
  | .resModeId => s.resModeId
  | .resLen => s.resLen

/-- What a register write stores (R23 to R26, R29). Read-only registers ignore writes. A write of `CMD` stores nothing;
the command it executes is Issue.lean's. -/
def State.writeReg (s : State) (r : Reg) (v : Word) : State :=
  match r with
  | .width => { s with width := v.setWidth 16 }
  | .height => { s with height := v.setWidth 16 }
  | .modeId => { s with modeId := v }
  | .status => { s with status := s.status.afterWrite v }
  | .cmd | .id | .faultCmd | .resWidth | .resHeight | .resBpp | .resModeId | .resLen => s

/-! ## Fault entry, and reset -/

/-- The fault causes of 60_exceptions.md R231. -/
inductive FaultCause where
  /-- `QEDN` with `LEVELS < 2` (R232) -/
  | levelsLt2
  deriving DecidableEq, Repr

/-- The code a cause has in `STATUS.CAUSE` (R231). -/
def FaultCause.code : FaultCause → BitVec 4
  | .levelsLt2 => 1

/-- `raise Fault(cause)` (60_exceptions.md R233): `FAULT`, `CAUSE` and `FAULTCMD`, the complete word on the bus, and
nothing else. No context is saved and nothing is vectored. -/
def State.raiseFault (s : State) (cause : FaultCause) : State :=
  { s with
    status := { s.status with fault := true, cause := cause.code }
    faultCmd := s.busData }

/-- Reset (70_reset_and_hazards.md R260, R261): every register at its reset value, the fault state left, the memories
kept. There is no other return from a fault (60_exceptions.md R235). What the host has yet to issue is the host's. -/
def State.afterReset (s : State) : State :=
  { State.reset with cfg := s.cfg, mem := s.mem, pending := s.pending }

end Sys2Proof.Machine
end

