-- ==== Sys2Proof/Machine/Operands.lean ====
section
/-! DEFINITION. The operands of a command beside its immediates (spec/10_state.md R20): the grid shape, the grids and
the palette it reads, and the pixels it writes (20_memory.md R62, R63, R77). The engine reads single bytes. -/

namespace Sys2Proof.Machine

/-- The colour of a pixel or of a palette entry, alpha left out. -/
structure Rgb where
  r : Byte
  g : Byte
  b : Byte
  deriving DecidableEq, Repr

/-- A four-channel element (20_memory.md R63). -/
structure Rgba where
  rgb : Rgb
  a : Byte
  deriving DecidableEq, Repr

/-- What a quantizer emits for one pixel: its `IDX` element and its `PREV` element. -/
structure PixelOut where
  index : Byte
  preview : Rgba
  deriving DecidableEq, Repr

/-! ## Grid shape -/

/-- `W = REG.WIDTH` (00_scope.md R12). -/
def State.gridW (s : State) : Nat := s.width.toNat

/-- `H = REG.HEIGHT`. -/
def State.gridH (s : State) : Nat := s.height.toNat

/-- `W * H`, the number of pixels of the grid. -/
def State.pixels (s : State) : Nat := s.gridW * s.gridH

/-- `W * H <= MAXPIX`, what a command other than `NOP` requires (70_reset_and_hazards.md R263). -/
def State.gridFits (s : State) : Bool := decide (s.pixels ≤ s.cfg.maxPix)

/-! ## Reading grids -/

/-- The elements with the indices of a list, if each has been written. -/
def gather {α : Type} (elem : Nat → Option α) : List Nat → Option (List α)
  | [] => some []
  | i :: is =>
    match elem i, gather elem is with
    | some x, some xs => some (x :: xs)
    | _, _ => none

/-- `R`, `G`, `B` of element `i` of a four-channel memory. -/
def Memory.rgbAt (m : Memory) (w : Window) (i : Nat) : Option Rgb :=
  match m.read (chanAddr w i 0), m.read (chanAddr w i 1), m.read (chanAddr w i 2) with
  | some r, some g, some b => some ⟨r, g, b⟩
  | _, _, _ => none

/-- All four channels of element `i` of a four-channel memory. -/
def Memory.rgbaAt (m : Memory) (w : Window) (i : Nat) : Option Rgba :=
  match m.rgbAt w i, m.read (chanAddr w i 3) with
  | some rgb, some a => some ⟨rgb, a⟩
  | _, _ => none

/-- `GRAY[0 .. n-1]`. -/
def Memory.grayGrid (m : Memory) (n : Nat) : Option (List Byte) :=
  gather (fun i => m.read (elemAddr .gray i)) (List.range n)

/-- `IDX[0 .. n-1]`. -/
def Memory.idxGrid (m : Memory) (n : Nat) : Option (List Byte) :=
  gather (fun i => m.read (elemAddr .idx i)) (List.range n)

/-- `PREV[0 .. n-1].R`. -/
def Memory.prevRedGrid (m : Memory) (n : Nat) : Option (List Byte) :=
  gather (fun i => m.read (chanAddr .prev i 0)) (List.range n)

/-- `SRC[0 .. n-1]` without alpha (40_tone_reducer.md R121). -/
def Memory.srcRgbGrid (m : Memory) (n : Nat) : Option (List Rgb) :=
  gather (fun i => m.rgbAt .src i) (List.range n)

/-- `SRC[0 .. n-1]` with alpha (43_palette_matcher.md R175). -/
def Memory.srcGrid (m : Memory) (n : Nat) : Option (List Rgba) :=
  gather (fun i => m.rgbaAt .src i) (List.range n)

/-- The palette a `QPAL` command sees on a grid of `n` pixels (43_palette_matcher.md R170): the first `npal` entries,
alpha not read. A command whose loops run zero times reads none (70_reset_and_hazards.md R268). -/
def Memory.palette (m : Memory) (npal n : Nat) : Option (List Rgb) :=
  gather (fun j => m.rgbAt .pal j) (List.range (if n = 0 then 0 else npal))

/-! ## Writing pixels -/

/-- `IDX[i] <- index` and `PREV[i] <- preview` (41_stateless_quantizers.md R130, 43_palette_matcher.md R175). -/
def Memory.emit (m : Memory) (i : Nat) (o : PixelOut) : Memory :=
  (m.write (elemAddr .idx i) o.index).writeBytes (chanAddr .prev i 0)
    [o.preview.rgb.r, o.preview.rgb.g, o.preview.rgb.b, o.preview.a]

/-- The pixels of a pass, in the order it emits them. -/
def Memory.emitAll (m : Memory) (outs : List (Nat × PixelOut)) : Memory :=
  outs.foldl (fun m p => m.emit p.1 p.2) m

/-- `emit_binary` (41_stateless_quantizers.md R130): light is index 1 and white, dark is index 0 and black. -/
def binaryOut (light : Bool) : PixelOut :=
  if light then ⟨1, ⟨⟨255, 255, 255⟩, 255⟩⟩ else ⟨0, ⟨⟨0, 0, 0⟩, 255⟩⟩

/-- The output of a gray quantizer with index `k` and reconstructed sample `sample` (10_state.md R34). -/
def grayOut (k sample : Byte) : PixelOut := ⟨k, ⟨⟨sample, sample, sample⟩, 255⟩⟩

/-- `emit_palette` (43_palette_matcher.md R175): the colour of entry `j`, the alpha of the source pixel. -/
def paletteOut (pal : List Rgb) (j : Nat) (alpha : Byte) : PixelOut :=
  ⟨BitVec.ofNat 8 j, ⟨pal.getD j ⟨0, 0, 0⟩, alpha⟩⟩

/-! ## The frame of every grid command -/

/-- A grid command: the grid must fit (70_reset_and_hazards.md R263), the inputs must have been written (R265), and
then the command goes on with them. -/
def State.withInput {α : Type} (s : State) (input : Option α) (run : α → Result) : Result :=
  if s.gridFits then
    match input with
    | some x => run x
    | none => .fault .unwrittenElement
  else .refused .gridExceedsCapacity

/-- A gray quantizer: pixels from `GRAY[0 .. W*H-1]`. -/
def State.quantizeGray (s : State) (pass : List Byte → List (Nat × PixelOut)) : Result :=
  s.withInput (s.mem.grayGrid s.pixels) fun gray =>
    .next { s with mem := s.mem.emitAll (pass gray) }

/-- A palette quantizer: pixels from `SRC[0 .. W*H-1]` and the palette. -/
def State.quantizePalette (s : State) (npal : Nat) (pass : List Rgba → List Rgb → List (Nat × PixelOut)) : Result :=
  s.withInput (s.mem.srcGrid s.pixels) fun src =>
    s.withInput (s.mem.palette npal s.pixels) fun pal =>
      .next { s with mem := s.mem.emitAll (pass src pal) }

end Sys2Proof.Machine
end

