-- ==== Sys2Proof/Machine/Scan.lean ====
section
/-! DEFINITION. The orders in which a pass visits its pixels (spec/42_gray_error_diffusion.md R142, R145,
44_color_error_diffusion.md R183, 45_bit_packers.md R201). A scan position is local to a pass (10_state.md R21). -/

namespace Sys2Proof.Machine

/-- A visited pixel and the row's direction of travel: `dir` is 1 left to right, -1 right to left. -/
structure ScanPos where
  x : Nat
  y : Nat
  dir : Int
  deriving DecidableEq, Repr

/-- The linear index `y*W + x` of a visited pixel (20_memory.md R62). -/
def ScanPos.index (w : Nat) (p : ScanPos) : Nat := p.y * w + p.x

/-- Row `y` left to right. -/
def rowForward (w y : Nat) : List ScanPos := (List.range w).map fun x => ⟨x, y, 1⟩

/-- Row `y` right to left. -/
def rowBackward (w y : Nat) : List ScanPos := (List.range w).reverse.map fun x => ⟨x, y, -1⟩

/-- Top to bottom, every row left to right (R142, R201). -/
def scanRaster (w h : Nat) : List ScanPos := (List.range h).flatMap fun y => rowForward w y

/-- Top to bottom, even rows left to right, odd rows right to left (R145, R183). -/
def scanSerpentine (w h : Nat) : List ScanPos :=
  (List.range h).flatMap fun y => if y % 2 = 0 then rowForward w y else rowBackward w y

end Sys2Proof.Machine
end

