-- ==== Sys2Proof/Machine/Diffusion.lean ====
section
/-! DEFINITION. What gray and color error diffusion share: where a tap lands and what it does to the working buffer
(spec/42_gray_error_diffusion.md R141, 44_color_error_diffusion.md R182, 20_memory.md R76). One plane of the working
buffer is a list of `W*H` values, local to the pass (10_state.md R36). -/

namespace Sys2Proof.Machine

/-- The index of the neighbour a tap of the pixel at `p` addresses: the column offset is mirrored on a right-to-left
row, and a neighbour outside the grid is none (R141; 20_memory.md R76). -/
def tapTarget (w h : Nat) (p : ScanPos) (t : Tap) : Option Nat :=
  let x' : Int := (p.x : Int) + p.dir * t.dx
  let y' := p.y + t.dy
  if 0 ≤ x' ∧ x' < (w : Int) ∧ y' < h then some (y' * w + x'.toNat) else none

/-- `(err * w) / div`, in this order (R141). -/
def share (fmt : FFormat) (k : Kernel) (err : FVal) (t : Tap) : FVal :=
  fdiv fmt (fmul fmt err (toF fmt t.w)) (toF fmt k.div)

/-- A neighbour's new value: the share added, then clamped (R141). -/
def receive (fmt : FFormat) (k : Kernel) (err : FVal) (t : Tap) (v : FVal) : FVal :=
  clampF fmt (fadd fmt v (share fmt k err t))

/-- One tap: its target receives the share, and a tap that leaves the grid is dropped. -/
def applyTap (fmt : FFormat) (k : Kernel) (w h : Nat) (p : ScanPos) (err : FVal) (wb : List FVal) (t : Tap) :
    List FVal :=
  match tapTarget w h p t with
  | some j => wb.modify j (receive fmt k err t)
  | none => wb

/-- `diffuse_gray` (R141), and `diffuse_color` on one channel (R182): every tap of the kernel. -/
def diffuse (fmt : FFormat) (k : Kernel) (w h : Nat) (p : ScanPos) (err : FVal) (wb : List FVal) : List FVal :=
  k.taps.foldl (applyTap fmt k w h p err) wb

end Sys2Proof.Machine
end

