-- ==== Sys2Proof/Machine/Palette.lean ====
section
/-! DEFINITION. The Palette Matcher, command `QPAL.NONE` (spec/43_palette_matcher.md). -/

namespace Sys2Proof.Machine

/-- The loop of `match_int` and `match_F` from entry `j` on: a strictly smaller distance replaces the best one (R172). -/
def nearestFrom {α : Type} (lt : α → α → Bool) : List α → Nat → Nat → α → Nat
  | [], _, best, _ => best
  | d :: ds, j, best, bestd =>
    if lt d bestd then nearestFrom lt ds (j + 1) j d else nearestFrom lt ds (j + 1) best bestd

/-- The lowest index of a least distance (R172). -/
def nearest {α : Type} (lt : α → α → Bool) : List α → Nat
  | [] => 0
  | d :: ds => nearestFrom lt ds 1 0 d

/-- `(a - b)^2` on integers. -/
def squaredDiff (a b : Byte) : Nat := (((a.toNat : Int) - (b.toNat : Int)) ^ 2).toNat

/-- `dist(r, g, b, j)`: squared Euclidean RGB distance, alpha left out (R171). -/
def distInt (p e : Rgb) : Nat := squaredDiff p.r e.r + squaredDiff p.g e.g + squaredDiff p.b e.b

/-- `match_int` (R172). -/
def matchInt (pal : List Rgb) (p : Rgb) : Nat := nearest (fun d e => decide (d < e)) (pal.map (distInt p))

/-- `pre(c)` (R173): the photographic negative `255 - c` when `PREINV` is set. -/
def pre (preinv : Bool) (c : Byte) : Byte := if preinv then 255 - c else c

/-- `pre` on each channel; alpha has no part in it (R173). -/
def preRgb (preinv : Bool) (p : Rgb) : Rgb := ⟨pre preinv p.r, pre preinv p.g, pre preinv p.b⟩

/-- The pixels of `QPAL.NONE` (R174): each on its own. -/
def plainMatch (preinv : Bool) (src : List Rgba) (pal : List Rgb) : List (Nat × PixelOut) :=
  src.mapIdx fun i p => (i, paletteOut pal (matchInt pal (preRgb preinv p.rgb)) p.a)

/-- `QPAL.NONE npal [, PREINV]` (R174). -/
def execQpalNone (npal : Nat) (preinv : Bool) (s : State) : Result :=
  s.quantizePalette npal (plainMatch preinv)

end Sys2Proof.Machine
end

