-- ==== Sys2Proof/Machine/ColorDiffusion.lean ====
section
/-! DEFINITION. The color error-diffusion quantizer, commands `QPAL` with a kernel (spec/44_color_error_diffusion.md). -/

namespace Sys2Proof.Machine

/-- One working value for each channel. -/
structure ColorVal where
  r : FVal
  g : FVal
  b : FVal
  deriving DecidableEq, Repr

/-- The three planes of the working buffer (10_state.md R36). -/
structure Planes where
  r : List FVal
  g : List FVal
  b : List FVal
  deriving DecidableEq, Repr

/-- Seeding the three planes with the pre-inverted channels (R180). -/
def seedColor (fmt : FFormat) (preinv : Bool) (src : List Rgba) : Planes where
  r := src.map fun p => toF fmt (pre preinv p.rgb.r).toNat
  g := src.map fun p => toF fmt (pre preinv p.rgb.g).toNat
  b := src.map fun p => toF fmt (pre preinv p.rgb.b).toNat

/-- The working values of pixel `i`. -/
def Planes.at (fmt : FFormat) (wb : Planes) (i : Nat) : ColorVal :=
  ⟨wb.r.getD i (toF fmt 0), wb.g.getD i (toF fmt 0), wb.b.getD i (toF fmt 0)⟩

/-- A pixel's values minus a palette entry's channels: the error of R183 and the differences of R181. -/
def colorDiff (fmt : FFormat) (v : ColorVal) (e : Rgb) : ColorVal :=
  ⟨fsub fmt v.r (toF fmt e.r.toNat), fsub fmt v.g (toF fmt e.g.toNat), fsub fmt v.b (toF fmt e.b.toNat)⟩

/-- `distF`: `((dr*dr + dg*dg) + db*db)` in `F` (R181). -/
def distF (fmt : FFormat) (v : ColorVal) (e : Rgb) : FVal :=
  let d := colorDiff fmt v e
  fadd fmt (fadd fmt (fmul fmt d.r d.r) (fmul fmt d.g d.g)) (fmul fmt d.b d.b)

/-- `match_F` (R181): lowest index under strict less-than on the `F` distances. -/
def matchF (fmt : FFormat) (pal : List Rgb) (v : ColorVal) : Nat := nearest flt (pal.map (distF fmt v))

/-- `diffuse_color` (R182): each channel on its own plane. -/
def diffuseColor (fmt : FFormat) (k : Kernel) (w h : Nat) (p : ScanPos) (err : ColorVal) (wb : Planes) : Planes where
  r := diffuse fmt k w h p err.r wb.r
  g := diffuse fmt k w h p err.g wb.g
  b := diffuse fmt k w h p err.b wb.b

/-- A color diffusion pass over a scan (R183). -/
def colorPass (fmt : FFormat) (k : Kernel) (w h : Nat) (pal : List Rgb) (src : List Rgba) :
    List ScanPos → Planes → List (Nat × PixelOut)
  | [], _ => []
  | p :: ps, wb =>
    let i := p.index w
    let v := wb.at fmt i
    let j := matchF fmt pal v
    let err := colorDiff fmt v (pal.getD j ⟨0, 0, 0⟩)
    (i, paletteOut pal j (src.getD i ⟨⟨0, 0, 0⟩, 0⟩).a)
      :: colorPass fmt k w h pal src ps (diffuseColor fmt k w h p err wb)

/-- The pixels of a `QPAL` pass with a kernel: always serpentine (R183). -/
def colorDiffusion (cfg : Config) (kernel : KernelId) (preinv : Bool) (w h : Nat) (src : List Rgba)
    (pal : List Rgb) : List (Nat × PixelOut) :=
  colorPass cfg.fmt (cfg.kernels.get kernel) w h pal src (scanSerpentine w h) (seedColor cfg.fmt preinv src)

/-- `QPAL` with a kernel (R183). -/
def State.qpal (s : State) (kernel : KernelId) (npal : Nat) (preinv : Bool) : Result :=
  s.quantizePalette npal (colorDiffusion s.cfg kernel preinv s.gridW s.gridH)

/-! ## Commands

Kernel codes 10 to 15 execute as FloydSteinberg, no flag (R184, 30_encoding.md R96). -/

/-- `QPAL.FS npal [, PREINV]`. -/
def execQpalFs (npal : Nat) (preinv : Bool) (s : State) : Result :=
  s.qpal .floydSteinberg npal preinv

/-- `QPAL.FFS npal [, PREINV]`. -/
def execQpalFfs (npal : Nat) (preinv : Bool) (s : State) : Result :=
  s.qpal .falseFloydSteinberg npal preinv

/-- `QPAL.JARVIS npal [, PREINV]`. -/
def execQpalJarvis (npal : Nat) (preinv : Bool) (s : State) : Result :=
  s.qpal .jarvis npal preinv

/-- `QPAL.STUCKI npal [, PREINV]`. -/
def execQpalStucki (npal : Nat) (preinv : Bool) (s : State) : Result :=
  s.qpal .stucki npal preinv

/-- `QPAL.ATKINSON npal [, PREINV]`. -/
def execQpalAtkinson (npal : Nat) (preinv : Bool) (s : State) : Result :=
  s.qpal .atkinson npal preinv

/-- `QPAL.BURKES npal [, PREINV]`. -/
def execQpalBurkes (npal : Nat) (preinv : Bool) (s : State) : Result :=
  s.qpal .burkes npal preinv

/-- `QPAL.SIERRA npal [, PREINV]`. -/
def execQpalSierra (npal : Nat) (preinv : Bool) (s : State) : Result :=
  s.qpal .sierra npal preinv

/-- `QPAL.TWOSIERRA npal [, PREINV]`. -/
def execQpalTwosierra (npal : Nat) (preinv : Bool) (s : State) : Result :=
  s.qpal .twoSierra npal preinv

/-- `QPAL.SIERRALITE npal [, PREINV]`. -/
def execQpalSierralite (npal : Nat) (preinv : Bool) (s : State) : Result :=
  s.qpal .sierraLite npal preinv

/-- `QPAL.K10 npal [, PREINV]`. -/
def execQpalK10 (npal : Nat) (preinv : Bool) (s : State) : Result :=
  s.qpal .floydSteinberg npal preinv

/-- `QPAL.K11 npal [, PREINV]`. -/
def execQpalK11 (npal : Nat) (preinv : Bool) (s : State) : Result :=
  s.qpal .floydSteinberg npal preinv

/-- `QPAL.K12 npal [, PREINV]`. -/
def execQpalK12 (npal : Nat) (preinv : Bool) (s : State) : Result :=
  s.qpal .floydSteinberg npal preinv

/-- `QPAL.K13 npal [, PREINV]`. -/
def execQpalK13 (npal : Nat) (preinv : Bool) (s : State) : Result :=
  s.qpal .floydSteinberg npal preinv

/-- `QPAL.K14 npal [, PREINV]`. -/
def execQpalK14 (npal : Nat) (preinv : Bool) (s : State) : Result :=
  s.qpal .floydSteinberg npal preinv

/-- `QPAL.K15 npal [, PREINV]`. -/
def execQpalK15 (npal : Nat) (preinv : Bool) (s : State) : Result :=
  s.qpal .floydSteinberg npal preinv

end Sys2Proof.Machine
end

