-- ==== Sys2Proof/Machine/GrayDiffusion.lean ====
section
/-! DEFINITION. The gray error-diffusion quantizer, commands `QEDB` and `QEDN` (spec/42_gray_error_diffusion.md). -/

namespace Sys2Proof.Machine

/-! ## Common parts -/

/-- Seeding plane 0 (R140). -/
def seedGray (fmt : FFormat) (gray : List Byte) : List FVal := gray.map fun v => toF fmt v.toNat

/-- A gray diffusion pass over a scan: each visited pixel is quantized to its output and its error, and the error is
diffused before the next pixel is visited (R142, R145). -/
def grayPass (fmt : FFormat) (k : Kernel) (w h : Nat) (quant : FVal → PixelOut × FVal) :
    List ScanPos → List FVal → List (Nat × PixelOut)
  | [], _ => []
  | p :: ps, wb =>
    let q := quant (wb.getD (p.index w) (toF fmt 0))
    (p.index w, q.1) :: grayPass fmt k w h quant ps (diffuse fmt k w h p q.2 wb)

/-! ## Quantization of one value -/

/-- The binary case (R142): light iff `old > THR`, the error is the old value minus 255 or 0. -/
def quantBinary (fmt : FFormat) (thr : Byte) (old : FVal) : PixelOut × FVal :=
  let light := fgt old (toF fmt thr.toNat)
  (binaryOut light, fsub fmt old (if light then toF fmt 255 else toF fmt 0))

/-- `step = 255 / (LEVELS - 1)` (R144). -/
def levelStep (fmt : FFormat) (levels : Byte) : FVal :=
  fdiv fmt (toF fmt 255) (toF fmt ((levels.toNat : Int) - 1))

/-- The level `k` of a value: `round(val / step)`, clamped to 0 and `LEVELS - 1` (R144). -/
def levelOf (fmt : FFormat) (levels : Byte) (val : FVal) : Int :=
  let k := roundHAZ fmt (fdiv fmt val (levelStep fmt levels))
  let k := if k < 0 then 0 else k
  if (levels.toNat : Int) - 1 < k then (levels.toNat : Int) - 1 else k

/-- The reconstructed value `k * step` (R144). -/
def reconstructed (fmt : FFormat) (levels : Byte) (k : Int) : FVal :=
  fmul fmt (toF fmt k) (levelStep fmt levels)

/-- The preview sample `min(255, roundHAZ(rec))` (R150). -/
def previewSample (fmt : FFormat) (rec : FVal) : Byte :=
  let v := roundHAZ fmt rec
  BitVec.ofInt 8 (if 255 < v then 255 else v)

/-- The N-level case, `quant_n` with its preview sample (R144, R145, R150). -/
def quantLevels (fmt : FFormat) (levels : Byte) (val : FVal) : PixelOut × FVal :=
  let k := levelOf fmt levels val
  let rec' := reconstructed fmt levels k
  (grayOut (BitVec.ofInt 8 k) (previewSample fmt rec'), fsub fmt val rec')

/-! ## The two passes -/

/-- The pixels of a `QEDB` pass: raster scan, never mirrored (R142). -/
def binaryDiffusion (cfg : Config) (kernel : KernelId) (thr : Byte) (w h : Nat) (gray : List Byte) :
    List (Nat × PixelOut) :=
  grayPass cfg.fmt (cfg.kernels.get kernel) w h (quantBinary cfg.fmt thr) (scanRaster w h) (seedGray cfg.fmt gray)

/-- The pixels of a `QEDN` pass: serpentine scan (R145). -/
def levelDiffusion (cfg : Config) (kernel : KernelId) (levels : Byte) (w h : Nat) (gray : List Byte) :
    List (Nat × PixelOut) :=
  grayPass cfg.fmt (cfg.kernels.get kernel) w h (quantLevels cfg.fmt levels) (scanSerpentine w h)
    (seedGray cfg.fmt gray)

/-- `QEDB` with a kernel (R142). -/
def State.qedb (s : State) (kernel : KernelId) (thr : Byte) : Result :=
  s.quantizeGray (binaryDiffusion s.cfg kernel thr s.gridW s.gridH)

/-- `QEDN` with a kernel (R145). The check of `LEVELS` comes before anything else (R143, 60_exceptions.md R232). -/
def State.qedn (s : State) (kernel : KernelId) (levels : Byte) : Result :=
  if levels.toNat < 2 then .next (s.raiseFault .levelsLt2)
  else s.quantizeGray (levelDiffusion s.cfg kernel levels s.gridW s.gridH)

/-! ## Commands: binary

Kernel codes 2 to 15 execute as Floyd-Steinberg, no flag (30_encoding.md R95). -/

/-- `QEDB.FS thr`. -/
def execQedbFs (thr : Byte) (s : State) : Result := s.qedb .floydSteinberg thr

/-- `QEDB.JJN thr`. -/
def execQedbJjn (thr : Byte) (s : State) : Result := s.qedb .jarvis thr

/-- `QEDB.K2 thr`. -/
def execQedbK2 (thr : Byte) (s : State) : Result := s.qedb .floydSteinberg thr

/-- `QEDB.K3 thr`. -/
def execQedbK3 (thr : Byte) (s : State) : Result := s.qedb .floydSteinberg thr

/-- `QEDB.K4 thr`. -/
def execQedbK4 (thr : Byte) (s : State) : Result := s.qedb .floydSteinberg thr

/-- `QEDB.K5 thr`. -/
def execQedbK5 (thr : Byte) (s : State) : Result := s.qedb .floydSteinberg thr

/-- `QEDB.K6 thr`. -/
def execQedbK6 (thr : Byte) (s : State) : Result := s.qedb .floydSteinberg thr

/-- `QEDB.K7 thr`. -/
def execQedbK7 (thr : Byte) (s : State) : Result := s.qedb .floydSteinberg thr

/-- `QEDB.K8 thr`. -/
def execQedbK8 (thr : Byte) (s : State) : Result := s.qedb .floydSteinberg thr

/-- `QEDB.K9 thr`. -/
def execQedbK9 (thr : Byte) (s : State) : Result := s.qedb .floydSteinberg thr

/-- `QEDB.K10 thr`. -/
def execQedbK10 (thr : Byte) (s : State) : Result := s.qedb .floydSteinberg thr

/-- `QEDB.K11 thr`. -/
def execQedbK11 (thr : Byte) (s : State) : Result := s.qedb .floydSteinberg thr

/-- `QEDB.K12 thr`. -/
def execQedbK12 (thr : Byte) (s : State) : Result := s.qedb .floydSteinberg thr

/-- `QEDB.K13 thr`. -/
def execQedbK13 (thr : Byte) (s : State) : Result := s.qedb .floydSteinberg thr

/-- `QEDB.K14 thr`. -/
def execQedbK14 (thr : Byte) (s : State) : Result := s.qedb .floydSteinberg thr

/-- `QEDB.K15 thr`. -/
def execQedbK15 (thr : Byte) (s : State) : Result := s.qedb .floydSteinberg thr

/-! ## Commands: N levels -/

/-- `QEDN.FS levels`. -/
def execQednFs (levels : Byte) (s : State) : Result := s.qedn .floydSteinberg levels

/-- `QEDN.JJN levels`. -/
def execQednJjn (levels : Byte) (s : State) : Result := s.qedn .jarvis levels

/-- `QEDN.K2 levels`. -/
def execQednK2 (levels : Byte) (s : State) : Result := s.qedn .floydSteinberg levels

/-- `QEDN.K3 levels`. -/
def execQednK3 (levels : Byte) (s : State) : Result := s.qedn .floydSteinberg levels

/-- `QEDN.K4 levels`. -/
def execQednK4 (levels : Byte) (s : State) : Result := s.qedn .floydSteinberg levels

/-- `QEDN.K5 levels`. -/
def execQednK5 (levels : Byte) (s : State) : Result := s.qedn .floydSteinberg levels

/-- `QEDN.K6 levels`. -/
def execQednK6 (levels : Byte) (s : State) : Result := s.qedn .floydSteinberg levels

/-- `QEDN.K7 levels`. -/
def execQednK7 (levels : Byte) (s : State) : Result := s.qedn .floydSteinberg levels

/-- `QEDN.K8 levels`. -/
def execQednK8 (levels : Byte) (s : State) : Result := s.qedn .floydSteinberg levels

/-- `QEDN.K9 levels`. -/
def execQednK9 (levels : Byte) (s : State) : Result := s.qedn .floydSteinberg levels

/-- `QEDN.K10 levels`. -/
def execQednK10 (levels : Byte) (s : State) : Result := s.qedn .floydSteinberg levels

/-- `QEDN.K11 levels`. -/
def execQednK11 (levels : Byte) (s : State) : Result := s.qedn .floydSteinberg levels

/-- `QEDN.K12 levels`. -/
def execQednK12 (levels : Byte) (s : State) : Result := s.qedn .floydSteinberg levels

/-- `QEDN.K13 levels`. -/
def execQednK13 (levels : Byte) (s : State) : Result := s.qedn .floydSteinberg levels

/-- `QEDN.K14 levels`. -/
def execQednK14 (levels : Byte) (s : State) : Result := s.qedn .floydSteinberg levels

/-- `QEDN.K15 levels`. -/
def execQednK15 (levels : Byte) (s : State) : Result := s.qedn .floydSteinberg levels

end Sys2Proof.Machine
end

