-- ==== Sys2Proof/Machine/Packers.lean ====
section
/-! DEFINITION. The four bit packers (spec/45_bit_packers.md). Each is a function of its own, with its own row length
and bit order (R207); they share the row-major scan, the cleared buffer and the metadata (R201, R206). -/

namespace Sys2Proof.Machine

/-- `ceil_div(a, b)` (00_scope.md R11). -/
def ceilDiv (a b : Nat) : Nat := (a + b - 1) / b

/-! ## Bytes per row (R200) -/

def bpr1 (w : Nat) : Nat := ceilDiv w 8
def bpr2 (w : Nat) : Nat := ceilDiv w 4
def bpr3 (w : Nat) : Nat := ceilDiv w 2
def bpr4 (w : Nat) : Nat := ceilDiv w 2

/-! ## Common parts -/

/-- `PBUF[b] <- PBUF[b] | v`. -/
def orByte (buf : List Byte) (b : Nat) (v : Byte) : List Byte := buf.modify b (· ||| v)

/-- `metadata(n)` and the packed bytes, at the end of a `PACKn` (R201, R206): `PBUF[0 ..]` and the five `RES_*`
registers. -/
def State.storePacked (s : State) (n : BitVec 3) (bpr : Nat) (buf : List Byte) : State :=
  { s with
    mem := s.mem.writeBytes (elemAddr .pbuf 0) buf
    resWidth := s.width
    resHeight := s.height
    resBpp := n
    resModeId := s.modeId
    resLen := BitVec.ofNat 32 (bpr * s.gridH) }

/-! ## 1 bpp (R202) -/

/-- The bit of an index: bit 0 is light, inverted first when `INV` is set, then dark packs as 1. -/
def bit1 (inv : Bool) (v : Byte) : Byte :=
  let light := v &&& 1
  let light := if inv then light ^^^ 1 else light
  1 - light

/-- Pixel `x` of a row: bit `7 - (x & 7)` of the row's byte `x >> 3`. -/
def pack1 (inv : Bool) (w h : Nat) (idx : List Byte) : List Byte :=
  (scanRaster w h).foldl
    (fun buf p => orByte buf (p.y * bpr1 w + p.x / 8) (bit1 inv (idx.getD (p.index w) 0) <<< (7 - p.x % 8)))
    (List.replicate (bpr1 w * h) 0)

/-- `PACK1 [INV]`. -/
def execPack1 (inv : Bool) (s : State) : Result :=
  s.withInput (s.mem.idxGrid s.pixels) fun idx =>
    .next (s.storePacked 1 (bpr1 s.gridW) (pack1 inv s.gridW s.gridH idx))

/-! ## 2 bpp (R203) -/

/-- Pixel `x` of a row: bits `7 - 2*(x & 3)` and the one below of the row's byte `x >> 2`. -/
def pack2 (w h : Nat) (idx : List Byte) : List Byte :=
  (scanRaster w h).foldl
    (fun buf p => orByte buf (p.y * bpr2 w + p.x / 4) ((idx.getD (p.index w) 0 &&& 3) <<< (6 - 2 * (p.x % 4))))
    (List.replicate (bpr2 w * h) 0)

/-- `PACK2`. -/
def execPack2 (s : State) : Result :=
  s.withInput (s.mem.idxGrid s.pixels) fun idx =>
    .next (s.storePacked 2 (bpr2 s.gridW) (pack2 s.gridW s.gridH idx))

/-! ## 3 bpp, nibble-aligned (R204) -/

/-- The nibble of an index: its low three bits, shifted left by one. -/
def nibble3 (v : Byte) : Byte := (v &&& 7) <<< 1

/-- Pixel `x` of a row: the high nibble of the row's byte `x >> 1` for even `x`, else the low one. -/
def pack3 (w h : Nat) (idx : List Byte) : List Byte :=
  (scanRaster w h).foldl
    (fun buf p =>
      let n := nibble3 (idx.getD (p.index w) 0)
      orByte buf (p.y * bpr3 w + p.x / 2) (if p.x % 2 = 0 then n <<< 4 else n))
    (List.replicate (bpr3 w * h) 0)

/-- `PACK3`. -/
def execPack3 (s : State) : Result :=
  s.withInput (s.mem.idxGrid s.pixels) fun idx =>
    .next (s.storePacked 3 (bpr3 s.gridW) (pack3 s.gridW s.gridH idx))

/-! ## 4 bpp (R205) -/

/-- The nibble of a sample: its top four bits, `15 - v` when `INV` is set. -/
def nibble4 (inv : Bool) (sample : Byte) : Byte :=
  let v := sample >>> 4
  if inv then 15 - v else v

/-- Pixel `x` of a row: the high nibble of the row's byte `x >> 1` for even `x`, else the low one. -/
def pack4 (inv : Bool) (w h : Nat) (samples : List Byte) : List Byte :=
  (scanRaster w h).foldl
    (fun buf p =>
      let n := nibble4 inv (samples.getD (p.index w) 0)
      orByte buf (p.y * bpr4 w + p.x / 2) (if p.x % 2 = 0 then n <<< 4 else n))
    (List.replicate (bpr4 w * h) 0)

/-- `PACK4 [INV]`: the samples are `PREV[i].R`. -/
def execPack4 (inv : Bool) (s : State) : Result :=
  s.withInput (s.mem.prevRedGrid s.pixels) fun samples =>
    .next (s.storePacked 4 (bpr4 s.gridW) (pack4 inv s.gridW s.gridH samples))

end Sys2Proof.Machine
end

