-- ==== Sys2Proof/Machine/Stateless.lean ====
section
/-! DEFINITION. The stateless quantizers, commands `QTHR` and `QORD` (spec/41_stateless_quantizers.md). -/

namespace Sys2Proof.Machine

/-- A quantizer whose pixels depend on their own sample and index alone: pixel `i` is light as `light i sample` says
(R130). -/
def pixelwise (light : Nat → Byte → Bool) (gray : List Byte) : List (Nat × PixelOut) :=
  gray.mapIdx fun i v => (i, binaryOut (light i v))

/-- `QTHR` decides light: `GRAY[i] > THR`, strictly (R131). -/
def thresholdLight (thr v : Byte) : Bool := decide (thr.toNat < v.toNat)

/-- `PATTERN[y & 1][x & 1]` (R133). -/
def pattern (x y : Nat) : Nat :=
  match y % 2, x % 2 with
  | 0, 0 => 0
  | 0, _ => 128
  | _, 0 => 192
  | _, _ => 64

/-- `QORD`'s comparison `intensity > p*0.75 + THR*0.25`, as `4*intensity > 3*p + THR` (R132, R134). -/
def orderedGreater (thr v : Byte) (x y : Nat) : Bool :=
  decide (3 * pattern x y + thr.toNat < 4 * v.toNat)

/-- `QORD` decides light, by `ORD_DARK_IF_GREATER` (R132). -/
def orderedLight (cfg : Config) (w : Nat) (thr : Byte) (i : Nat) (v : Byte) : Bool :=
  let greater := orderedGreater thr v (i % w) (i / w)
  let dark := if cfg.ordDarkIfGreater then greater else !greater
  !dark

/-- `QTHR thr` (R131). -/
def execQthr (thr : Byte) (s : State) : Result :=
  s.quantizeGray (pixelwise fun _ v => thresholdLight thr v)

/-- `QORD thr` (R132). Pixel `i` is at column `i mod W`, row `i div W` (20_memory.md R62). -/
def execQord (thr : Byte) (s : State) : Result :=
  s.quantizeGray (pixelwise (orderedLight s.cfg s.gridW thr))

end Sys2Proof.Machine
end

