-- ==== Sys2Proof/Machine/System.lean ====
section
/-! DEFINITION. `NOP` (spec/46_pipeline_and_nop.md R220) and the reserved opcodes (30_encoding.md R97,
60_exceptions.md R236). -/

namespace Sys2Proof.Machine

/-- `NOP`: no effect (46 R220). -/
def execNop (s : State) : Result := .next s

/-- `RESERVED.OP7`: `STATUS.ILLOP <- 1` and nothing else (30 R97, 60 R236). -/
def execReservedOp7 (s : State) : Result := .next s.setIllop

/-- `RESERVED.OP12`: `STATUS.ILLOP <- 1` and nothing else (30 R97, 60 R236). -/
def execReservedOp12 (s : State) : Result := .next s.setIllop

/-- `RESERVED.OP13`: `STATUS.ILLOP <- 1` and nothing else (30 R97, 60 R236). -/
def execReservedOp13 (s : State) : Result := .next s.setIllop

/-- `RESERVED.OP14`: `STATUS.ILLOP <- 1` and nothing else (30 R97, 60 R236). -/
def execReservedOp14 (s : State) : Result := .next s.setIllop

/-- `RESERVED.OP15`: `STATUS.ILLOP <- 1` and nothing else (30 R97, 60 R236). -/
def execReservedOp15 (s : State) : Result := .next s.setIllop

end Sys2Proof.Machine
end

