-- ==== Sys2Proof/Machine/Tone.lean ====
section
/-! DEFINITION. The Tone Reducer, command `TONE` (spec/40_tone_reducer.md). -/

namespace Sys2Proof.Machine

/-- `luma(R, G, B)` in exact integer arithmetic (R120). -/
def lumaExact (p : Rgb) : Nat :=
  (2126 * p.r.toNat + 7152 * p.g.toNat + 722 * p.b.toNat + 5000) / 10000

/-- The other candidate of `TONE_ARITH` (R120): the formula in `F`, summed left to right, each coefficient the value of
`F` nearest to its decimal. -/
def lumaFloat (fmt : FFormat) (p : Rgb) : Int :=
  let coef := fun (n : Int) => fdiv fmt (toF fmt n) (toF fmt 10000)
  roundHAZ fmt
    (fadd fmt
      (fadd fmt (fmul fmt (coef 2126) (toF fmt p.r.toNat)) (fmul fmt (coef 7152) (toF fmt p.g.toNat)))
      (fmul fmt (coef 722) (toF fmt p.b.toNat)))

/-- The sample `TONE` writes, by `TONE_ARITH` (00_scope.md R10). -/
def luma (cfg : Config) (p : Rgb) : Byte :=
  match cfg.toneArith with
  | .exact => BitVec.ofNat 8 (lumaExact p)
  | .float => BitVec.ofInt 8 (lumaFloat cfg.fmt p)

/-- `TONE` (R121): `GRAY[i] <- luma(SRC[i])` for every pixel of the grid. -/
def execTone (s : State) : Result :=
  s.withInput (s.mem.srcRgbGrid s.pixels) fun src =>
    .next { s with mem := s.mem.writeBytes (elemAddr .gray 0) (src.map (luma s.cfg)) }

end Sys2Proof.Machine
end

