-- ==== Sys2Proof/Machine/Dispatch.lean ====
section
/-! DEFINITION. What each command does (spec/30_encoding.md R92): one arm for each row of spec/opcode_table.json. -/

namespace Sys2Proof.Machine

/-- Executing a decoded command outside the fault state (spec/60_exceptions.md R238, checks 3 to 5). -/
def exec (i : Instr) (s : State) : Host.Outcome State Fault Refusal :=
  match i with
  | .nop => Sys2Proof.Machine.execNop s
  | .tone => Sys2Proof.Machine.execTone s
  | .qthr thr => Sys2Proof.Machine.execQthr thr s
  | .qord thr => Sys2Proof.Machine.execQord thr s
  | .qedbFs thr => Sys2Proof.Machine.execQedbFs thr s
  | .qedbJjn thr => Sys2Proof.Machine.execQedbJjn thr s
  | .qedbK2 thr => Sys2Proof.Machine.execQedbK2 thr s
  | .qedbK3 thr => Sys2Proof.Machine.execQedbK3 thr s
  | .qedbK4 thr => Sys2Proof.Machine.execQedbK4 thr s
  | .qedbK5 thr => Sys2Proof.Machine.execQedbK5 thr s
  | .qedbK6 thr => Sys2Proof.Machine.execQedbK6 thr s
  | .qedbK7 thr => Sys2Proof.Machine.execQedbK7 thr s
  | .qedbK8 thr => Sys2Proof.Machine.execQedbK8 thr s
  | .qedbK9 thr => Sys2Proof.Machine.execQedbK9 thr s
  | .qedbK10 thr => Sys2Proof.Machine.execQedbK10 thr s
  | .qedbK11 thr => Sys2Proof.Machine.execQedbK11 thr s
  | .qedbK12 thr => Sys2Proof.Machine.execQedbK12 thr s
  | .qedbK13 thr => Sys2Proof.Machine.execQedbK13 thr s
  | .qedbK14 thr => Sys2Proof.Machine.execQedbK14 thr s
  | .qedbK15 thr => Sys2Proof.Machine.execQedbK15 thr s
  | .qednFs levels => Sys2Proof.Machine.execQednFs levels s
  | .qednJjn levels => Sys2Proof.Machine.execQednJjn levels s
  | .qednK2 levels => Sys2Proof.Machine.execQednK2 levels s
  | .qednK3 levels => Sys2Proof.Machine.execQednK3 levels s
  | .qednK4 levels => Sys2Proof.Machine.execQednK4 levels s
  | .qednK5 levels => Sys2Proof.Machine.execQednK5 levels s
  | .qednK6 levels => Sys2Proof.Machine.execQednK6 levels s
  | .qednK7 levels => Sys2Proof.Machine.execQednK7 levels s
  | .qednK8 levels => Sys2Proof.Machine.execQednK8 levels s
  | .qednK9 levels => Sys2Proof.Machine.execQednK9 levels s
  | .qednK10 levels => Sys2Proof.Machine.execQednK10 levels s
  | .qednK11 levels => Sys2Proof.Machine.execQednK11 levels s
  | .qednK12 levels => Sys2Proof.Machine.execQednK12 levels s
  | .qednK13 levels => Sys2Proof.Machine.execQednK13 levels s
  | .qednK14 levels => Sys2Proof.Machine.execQednK14 levels s
  | .qednK15 levels => Sys2Proof.Machine.execQednK15 levels s
  | .qpalNone npal preinv => Sys2Proof.Machine.execQpalNone npal preinv s
  | .qpalFs npal preinv => Sys2Proof.Machine.execQpalFs npal preinv s
  | .qpalFfs npal preinv => Sys2Proof.Machine.execQpalFfs npal preinv s
  | .qpalJarvis npal preinv => Sys2Proof.Machine.execQpalJarvis npal preinv s
  | .qpalStucki npal preinv => Sys2Proof.Machine.execQpalStucki npal preinv s
  | .qpalAtkinson npal preinv => Sys2Proof.Machine.execQpalAtkinson npal preinv s
  | .qpalBurkes npal preinv => Sys2Proof.Machine.execQpalBurkes npal preinv s
  | .qpalSierra npal preinv => Sys2Proof.Machine.execQpalSierra npal preinv s
  | .qpalTwosierra npal preinv => Sys2Proof.Machine.execQpalTwosierra npal preinv s
  | .qpalSierralite npal preinv => Sys2Proof.Machine.execQpalSierralite npal preinv s
  | .qpalK10 npal preinv => Sys2Proof.Machine.execQpalK10 npal preinv s
  | .qpalK11 npal preinv => Sys2Proof.Machine.execQpalK11 npal preinv s
  | .qpalK12 npal preinv => Sys2Proof.Machine.execQpalK12 npal preinv s
  | .qpalK13 npal preinv => Sys2Proof.Machine.execQpalK13 npal preinv s
  | .qpalK14 npal preinv => Sys2Proof.Machine.execQpalK14 npal preinv s
  | .qpalK15 npal preinv => Sys2Proof.Machine.execQpalK15 npal preinv s
  | .reservedOp7 => Sys2Proof.Machine.execReservedOp7 s
  | .pack1 inv => Sys2Proof.Machine.execPack1 inv s
  | .pack2 => Sys2Proof.Machine.execPack2 s
  | .pack3 => Sys2Proof.Machine.execPack3 s
  | .pack4 inv => Sys2Proof.Machine.execPack4 inv s
  | .reservedOp12 => Sys2Proof.Machine.execReservedOp12 s
  | .reservedOp13 => Sys2Proof.Machine.execReservedOp13 s
  | .reservedOp14 => Sys2Proof.Machine.execReservedOp14 s
  | .reservedOp15 => Sys2Proof.Machine.execReservedOp15 s

end Sys2Proof.Machine
end

