-- ==== Sys2Proof/Machine/HostPort.lean ====
section
/-! DEFINITION. The host port (spec/20_memory.md R64 to R71): which accesses are accepted, and what reads and writes of
registers and memories do. The write of `CMD` is Issue.lean's. -/

namespace Sys2Proof.Machine

/-- `n` (R66, R67). -/
def AccessWidth.bytes : AccessWidth → Nat
  | .byte => 1
  | .half => 2
  | .word => 4

/-- What an access addresses. -/
inductive Target where
  /-- a register, by an aligned 4-byte access -/
  | reg (r : Reg)
  /-- bytes of one memory, by an aligned access -/
  | mem
  /-- nothing: a bus error (R69) -/
  | error
  deriving DecidableEq, Repr

/-- The decoding of an access (R64, R68, R69): misaligned is an error, offsets 0 to 0xFF are the registers and take
4-byte accesses only, and the bytes of a memory access lie all in one window. -/
def target (maxPix a : Nat) (w : AccessWidth) : Target :=
  if a % w.bytes ≠ 0 then .error
  else if a < 0x100 then
    match w, regAt a with
    | .word, some r => .reg r
    | _, _ => .error
  else if inWindow maxPix a w.bytes then .mem
  else .error

/-- The low `n` bytes of the data of a write, lowest address first (R65, R67). -/
def AccessWidth.dataBytes (w : AccessWidth) (v : Word) : List Byte := (wordBytes v).take w.bytes

/-- The data of a read, from its bytes in address order (R65). -/
def wordOfList : List Byte → Word
  | [] => 0
  | b :: bs => (wordOfList bs <<< 8) ||| b.setWidth 32

/-- The machine with an answer on the bus. -/
def State.respond (s : State) (r : Response) : State := { s with response := r }

/-- `MemRead(addr, n)` (R66): no side effect but the answer. Reading a byte nothing has written faults (10_state.md
R44, log 2). -/
def State.hostRead (s : State) (a : Nat) (w : AccessWidth) : Result :=
  match target s.cfg.maxPix a w with
  | .reg r => .next (s.respond (.readData (s.readReg r)))
  | .mem =>
    match s.mem.readBytes a w.bytes with
    | some bs => .next (s.respond (.readData (wordOfList bs)))
    | none => .fault .unwrittenElement
  | .error => .next (s.respond .busError)

/-- `MemWrite(addr, n, v)` to anything but `CMD` (R67, 10_state.md R23). -/
def State.hostStore (s : State) (a : Nat) (w : AccessWidth) (v : Word) : State :=
  match target s.cfg.maxPix a w with
  | .reg r => (s.writeReg r v).respond .writeDone
  | .mem => { s with mem := s.mem.writeBytes a (w.dataBytes v) }.respond .writeDone
  | .error => s.respond .busError

/-- The offset of `CMD` (10_state.md R22). -/
def cmdOffset : Nat := 0x10

/-- The access is a write of `CMD`: an accepted access to that register. -/
def isCmdWrite (a : Nat) (w : AccessWidth) : Bool := decide (a = cmdOffset) && decide (w = .word)

end Sys2Proof.Machine
end

