-- ==== Sys2Proof/Machine/Issue.lean ====
section
/-! DEFINITION. What a write of `CMD` does (spec/10_state.md R28, 60_exceptions.md R234, R238), and how the next host
transaction is served. -/

namespace Sys2Proof.Machine

/-- The `CMD` write is in progress: the host drives the word until the command has completed. -/
def State.beginCommand (s : State) (c : Word) : State := { s with busData := c }

/-- The `CMD` write transaction completes (10_state.md R28): normally, also after a fault (60_exceptions.md R233). -/
def State.endCommand (s : State) : State := { s with busData := 0, response := .writeDone }

/-- What a command answers becomes what its `CMD` write answers. -/
def finishCommand : Result → Result
  | .next t => .next t.endCommand
  | .fault r => .fault r
  | .refused r => .refused r

/-- The command a word is: its four bytes given to the decoder (30_encoding.md R102). Four bytes always decode; the
last arm is there for totality. -/
def fetchCommand (c : Word) : Instr :=
  match decode (wordBytes c) with
  | .ok (i, _) => i
  | .error _ => .nop

/-- A 32-bit write of `c` to `CMD` (10_state.md R28, 60_exceptions.md R238): ignored entirely in the fault state (R234),
else decoded and executed to completion. -/
def State.issue (s : State) (c : Word) : Result :=
  if s.status.fault then .next (s.respond .writeDone)
  else finishCommand (exec (fetchCommand c) (s.beginCommand c))

/-- One host transaction (20_memory.md R66, R67, 70_reset_and_hazards.md R260). -/
def State.serve (s : State) : HostOp → Result
  | .read a w => s.hostRead a w
  | .write a w v => if isCmdWrite a w then s.issue v else .next (s.hostStore a w v)
  | .reset => .next s.afterReset

/-- One step: the oldest pending transaction is served and completes (20_memory.md R72). With none pending the engine
is idle and holds all state (60_exceptions.md R246). -/
def State.serveNext (s : State) : Result :=
  match s.pending with
  | [] => .next s
  | op :: rest => { s with pending := rest }.serve op

/-- A host that will next write the word `c` to `CMD`. -/
def State.pushCommand (s : State) (c : Word) : State :=
  { s with pending := .write cmdOffset .word c :: s.pending }

end Sys2Proof.Machine
end

