-- ==== Sys2Proof/Machine/Step.lean ====
section
/-! DEFINITION. One step of the machine: one host transaction (spec/00_scope.md R7, 20_memory.md R72). -/

namespace Sys2Proof.Machine

/-- One step. -/
def step (s : State) : Host.Outcome State Fault Refusal := s.serveNext

/-- The machine whose very next step executes the command of a table word: commands are the data of `CMD` writes
(10_state.md R21, R28), so this is the host transaction that writes it. Nothing else is changed (log 1). -/
def State.withFetchWord (s : State) (nbits w : Nat) : State := s.pushCommand (tableWord nbits w)

end Sys2Proof.Machine
end

