-- ==== Sys2Proof/Safety.lean ====
section
/-! DEFINITION. What counts as a safe run, in the terms the statements use: which elements a command reads and writes
(spec/20_memory.md R77), when its inputs are there (70_reset_and_hazards.md R262, R263, R265), and the invariant of the
machine. -/

namespace Sys2Proof.Machine

/-! ## Kinds of command (10_state.md R41, 20_memory.md R77) -/

/-- The commands, sorted by what they read and write. -/
inductive CommandKind where
  /-- `NOP` -/
  | nop
  /-- a reserved opcode -/
  | reserved
  /-- `TONE` -/
  | tone
  /-- `QTHR`, `QORD`, `QEDB`: a gray quantizer that emits indices below `bound` -/
  | gray (bound : Nat)
  /-- `QEDN` -/
  | levels (levels : Byte)
  /-- `QPAL` -/
  | palette (npal : Nat)
  /-- `PACK1`, `PACK2`, `PACK3` -/
  | packIndex (bpp : Nat)
  /-- `PACK4` -/
  | packSample
  deriving DecidableEq, Repr

/-- The kind of a command. -/
def commandKind : Instr → CommandKind
  | .nop => .nop
  | .tone => .tone
  | .qthr _ => .gray 2
  | .qord _ => .gray 2
  | .qedbFs _ => .gray 2
  | .qedbJjn _ => .gray 2
  | .qedbK2 _ => .gray 2
  | .qedbK3 _ => .gray 2
  | .qedbK4 _ => .gray 2
  | .qedbK5 _ => .gray 2
  | .qedbK6 _ => .gray 2
  | .qedbK7 _ => .gray 2
  | .qedbK8 _ => .gray 2
  | .qedbK9 _ => .gray 2
  | .qedbK10 _ => .gray 2
  | .qedbK11 _ => .gray 2
  | .qedbK12 _ => .gray 2
  | .qedbK13 _ => .gray 2
  | .qedbK14 _ => .gray 2
  | .qedbK15 _ => .gray 2
  | .qednFs levels => .levels levels
  | .qednJjn levels => .levels levels
  | .qednK2 levels => .levels levels
  | .qednK3 levels => .levels levels
  | .qednK4 levels => .levels levels
  | .qednK5 levels => .levels levels
  | .qednK6 levels => .levels levels
  | .qednK7 levels => .levels levels
  | .qednK8 levels => .levels levels
  | .qednK9 levels => .levels levels
  | .qednK10 levels => .levels levels
  | .qednK11 levels => .levels levels
  | .qednK12 levels => .levels levels
  | .qednK13 levels => .levels levels
  | .qednK14 levels => .levels levels
  | .qednK15 levels => .levels levels
  | .qpalNone npal _ => .palette npal
  | .qpalFs npal _ => .palette npal
  | .qpalFfs npal _ => .palette npal
  | .qpalJarvis npal _ => .palette npal
  | .qpalStucki npal _ => .palette npal
  | .qpalAtkinson npal _ => .palette npal
  | .qpalBurkes npal _ => .palette npal
  | .qpalSierra npal _ => .palette npal
  | .qpalTwosierra npal _ => .palette npal
  | .qpalSierralite npal _ => .palette npal
  | .qpalK10 npal _ => .palette npal
  | .qpalK11 npal _ => .palette npal
  | .qpalK12 npal _ => .palette npal
  | .qpalK13 npal _ => .palette npal
  | .qpalK14 npal _ => .palette npal
  | .qpalK15 npal _ => .palette npal
  | .reservedOp7 => .reserved
  | .pack1 _ => .packIndex 1
  | .pack2 => .packIndex 2
  | .pack3 => .packIndex 3
  | .pack4 _ => .packSample
  | .reservedOp12 => .reserved
  | .reservedOp13 => .reserved
  | .reservedOp14 => .reserved
  | .reservedOp15 => .reserved

/-- A kind that visits the grid when it executes: every one but `NOP` (70_reset_and_hazards.md R263), the reserved
opcodes (30_encoding.md R97) and `QEDN` with fewer than two levels (42_gray_error_diffusion.md R143). -/
def CommandKind.visitsGrid : CommandKind → Bool
  | .nop | .reserved => false
  | .levels l => decide (2 ≤ l.toNat)
  | .tone | .gray _ | .palette _ | .packIndex _ | .packSample => true

/-- Channels `0 .. c-1` of elements `0 .. n-1` of a four-channel memory. -/
def chanAddrs (w : Window) (n c : Nat) : List Nat :=
  (List.range n).flatMap fun i => (List.range c).map fun k => chanAddr w i k

/-- Elements `0 .. n-1` of a one-byte memory. -/
def elemAddrs (w : Window) (n : Nat) : List Nat := (List.range n).map (elemAddr w)

/-- The bytes a kind of command reads on a grid of `n` pixels (20_memory.md R77). A palette is read for a pixel, so not
on an empty grid. -/
def CommandKind.reads (n : Nat) : CommandKind → List Nat
  | .nop | .reserved => []
  | .tone => chanAddrs .src n 3
  | .gray _ => elemAddrs .gray n
  | .levels l => if l.toNat < 2 then [] else elemAddrs .gray n
  | .palette npal => chanAddrs .src n 4 ++ if n = 0 then [] else chanAddrs .pal npal 3
  | .packIndex _ => elemAddrs .idx n
  | .packSample => (List.range n).map fun i => chanAddr .prev i 0

/-- The row length of the packer of a depth (45_bit_packers.md R200). -/
def bytesPerRow (bpp w : Nat) : Nat :=
  match bpp with
  | 1 => bpr1 w
  | 2 => bpr2 w
  | 3 => bpr3 w
  | 4 => bpr4 w
  | _ => 0

/-- The bytes a kind of command writes on a `w` by `h` grid (20_memory.md R77, 10_state.md R41). -/
def CommandKind.writes (w h : Nat) : CommandKind → List Nat
  | .nop | .reserved => []
  | .tone => elemAddrs .gray (w * h)
  | .gray _ => elemAddrs .idx (w * h) ++ chanAddrs .prev (w * h) 4
  | .levels l => if l.toNat < 2 then [] else elemAddrs .idx (w * h) ++ chanAddrs .prev (w * h) 4
  | .palette _ => elemAddrs .idx (w * h) ++ chanAddrs .prev (w * h) 4
  | .packIndex bpp => elemAddrs .pbuf (bytesPerRow bpp w * h)
  | .packSample => elemAddrs .pbuf (bytesPerRow 4 w * h)

/-- Every byte of a list of addresses has been written since power-up (70_reset_and_hazards.md R265). -/
def State.written (s : State) (addrs : List Nat) : Prop := ∀ a ∈ addrs, (s.mem.read a).isSome

/-- The host has met its obligations toward a command (70_reset_and_hazards.md R262, R263, R265): a command that visits
the grid finds a grid that fits and inputs that have been written. -/
def State.ready (s : State) (i : Instr) : Prop :=
  (commandKind i).visitsGrid = true →
    s.pixels ≤ s.cfg.maxPix ∧ s.written ((commandKind i).reads s.pixels)

/-- `t` differs from `s` in memory at most. -/
def sameButMemory (s t : State) : Prop := t = { s with mem := t.mem }

/-- Every byte outside a list of addresses reads in `t` as it reads in `s`. -/
def sameOutside (addrs : List Nat) (s t : State) : Prop := ∀ a, a ∉ addrs → t.mem.read a = s.mem.read a

/-- The bits of a command word its format reads (30_encoding.md R91, R93). -/
def readMask (op : BitVec 4) : Word :=
  match op.toNat with
  | 2 | 3 => 0x0000FF0F#32
  | 4 | 5 => 0x0000FFFF#32
  | 6 => 0x00020FFF#32
  | 8 | 11 => 0x0001000F#32
  | _ => 0x0000000F#32

/-- A word whose `OP` is reserved (30_encoding.md R97). -/
def reservedWord (c : Word) : Bool := [7, 12, 13, 14, 15].contains (opField c)

/-- A `QEDN` word with fewer than two levels (60_exceptions.md R232). -/
def faultingWord (c : Word) : Bool := decide (opField c = 5) && decide ((imm8Field c).toNat < 2)

/-! ## Families of commands, each with the kernel it uses (30_encoding.md R95, R96) -/

/-- The sixteen `QEDB` commands. -/
def qedbCommands (thr : Byte) : List (Instr × KernelId) :=
   [(.qedbFs thr, .floydSteinberg), (.qedbJjn thr, .jarvis), (.qedbK2 thr, .floydSteinberg),
    (.qedbK3 thr, .floydSteinberg), (.qedbK4 thr, .floydSteinberg), (.qedbK5 thr, .floydSteinberg),
    (.qedbK6 thr, .floydSteinberg), (.qedbK7 thr, .floydSteinberg), (.qedbK8 thr, .floydSteinberg),
    (.qedbK9 thr, .floydSteinberg), (.qedbK10 thr, .floydSteinberg), (.qedbK11 thr, .floydSteinberg),
    (.qedbK12 thr, .floydSteinberg), (.qedbK13 thr, .floydSteinberg), (.qedbK14 thr, .floydSteinberg),
    (.qedbK15 thr, .floydSteinberg)]

/-- The sixteen `QEDN` commands. -/
def qednCommands (levels : Byte) : List (Instr × KernelId) :=
   [(.qednFs levels, .floydSteinberg), (.qednJjn levels, .jarvis), (.qednK2 levels, .floydSteinberg),
    (.qednK3 levels, .floydSteinberg), (.qednK4 levels, .floydSteinberg), (.qednK5 levels, .floydSteinberg),
    (.qednK6 levels, .floydSteinberg), (.qednK7 levels, .floydSteinberg), (.qednK8 levels, .floydSteinberg),
    (.qednK9 levels, .floydSteinberg), (.qednK10 levels, .floydSteinberg), (.qednK11 levels, .floydSteinberg),
    (.qednK12 levels, .floydSteinberg), (.qednK13 levels, .floydSteinberg), (.qednK14 levels, .floydSteinberg),
    (.qednK15 levels, .floydSteinberg)]

/-- The fifteen `QPAL` commands with a kernel. -/
def qpalCommands (npal : Nat) (preinv : Bool) : List (Instr × KernelId) :=
   [(.qpalFs npal preinv, .floydSteinberg), (.qpalFfs npal preinv, .falseFloydSteinberg), (.qpalJarvis npal preinv, .jarvis),
    (.qpalStucki npal preinv, .stucki), (.qpalAtkinson npal preinv, .atkinson), (.qpalBurkes npal preinv, .burkes),
    (.qpalSierra npal preinv, .sierra), (.qpalTwosierra npal preinv, .twoSierra), (.qpalSierralite npal preinv, .sierraLite),
    (.qpalK10 npal preinv, .floydSteinberg), (.qpalK11 npal preinv, .floydSteinberg), (.qpalK12 npal preinv, .floydSteinberg),
    (.qpalK13 npal preinv, .floydSteinberg), (.qpalK14 npal preinv, .floydSteinberg), (.qpalK15 npal preinv, .floydSteinberg)]

/-- The five reserved opcodes. -/
def reservedCommands : List Instr :=
  [.reservedOp7, .reservedOp12, .reservedOp13, .reservedOp14, .reservedOp15]

/-! ## Pixels -/

/-- Pixel `i` holds index `k` in `IDX` and `(r, g, b, a)` in `PREV`. -/
def State.pixelIs (s : State) (i : Nat) (k r g b a : Byte) : Prop :=
  s.mem.read (elemAddr .idx i) = some k ∧ s.mem.read (chanAddr .prev i 0) = some r ∧
    s.mem.read (chanAddr .prev i 1) = some g ∧ s.mem.read (chanAddr .prev i 2) = some b ∧
    s.mem.read (chanAddr .prev i 3) = some a

/-- The addresses of the pixels of a grid of `n`: `IDX[0 .. n-1]` and `PREV[0 .. n-1]`. -/
def pixelAddrs (n : Nat) : List Nat := elemAddrs .idx n ++ chanAddrs .prev n 4

/-! ## Host accesses and packs -/

/-- The accesses the port accepts (20_memory.md R64, R68): aligned, and either a 4-byte access to one of the twelve
registers or bytes lying all in one memory. -/
def acceptedAccess (maxPix a n : Nat) : Prop :=
  a % n = 0 ∧
    ((n = 4 ∧ a ∈ [0x00, 0x04, 0x08, 0x0C, 0x10, 0x14, 0x18, 0x20, 0x24, 0x28, 0x2C, 0x30]) ∨
      (0x100 ≤ a ∧ a + n ≤ 0x140) ∨
      (0x01000000 ≤ a ∧ a + n ≤ 0x01000000 + 4 * maxPix) ∨
      (0x02000000 ≤ a ∧ a + n ≤ 0x02000000 + maxPix) ∨
      (0x03000000 ≤ a ∧ a + n ≤ 0x03000000 + maxPix) ∨
      (0x04000000 ≤ a ∧ a + n ≤ 0x04000000 + 4 * maxPix) ∨
      (0x05000000 ≤ a ∧ a + n ≤ 0x05000000 + maxPix))

/-- After a pack of depth `n` with row length `bpr`, from `s` to `t`: the five metadata registers (R206), `RES_LEN` the
exact product, and every other register and every byte outside `PBUF[0 .. bpr*H-1]` as before (R201, R208). -/
def packedFrame (n : BitVec 3) (bpr : Nat) (s t : State) : Prop :=
  t = { s with mem := t.mem, resWidth := s.width, resHeight := s.height, resBpp := n, resModeId := s.modeId,
               resLen := t.resLen } ∧
    t.resLen.toNat = bpr * s.gridH ∧ sameOutside (elemAddrs .pbuf (bpr * s.gridH)) s t

/-! ## Working values, seen from the pixel that receives them -/

/-- The value element `j` of the working buffer has after the pixels of `before` have diffused their errors: its seed,
and then, in scan order, the share of every tap that lands on it, added and clamped (42_gray_error_diffusion.md
R141). This is the view of the receiving pixel; the machine works from the sending one (Diffusion.lean). -/
def pulledValue (fmt : FFormat) (k : Kernel) (w h : Nat) (err : Nat → FVal) (before : List ScanPos) (j : Nat)
    (seed : FVal) : FVal :=
  before.foldl
    (fun v q =>
      (k.taps.filter fun t => decide (tapTarget w h q t = some j)).foldl
        (fun v t => clampF fmt (fadd fmt v (fdiv fmt (fmul fmt (err (q.index w)) (toF fmt t.w)) (toF fmt k.div)))) v)
    seed

/-! ## Working values -/

/-- A working value in `[0, 255]` (42_gray_error_diffusion.md R141, 44_color_error_diffusion.md R195). -/
def inSampleRange (fmt : FFormat) (v : FVal) : Prop := (toF fmt 0).units ≤ v.units ∧ v.units ≤ (toF fmt 255).units

/-- A magnitude of whole units the format holds exactly: at most `prec` significand bits. -/
def representable (fmt : FFormat) (z : Nat) : Prop := ∃ m e : Nat, m < 2 ^ fmt.prec ∧ z = m * 2 ^ e

/-- A magnitude with an even significand: some way to write it with at most `prec` bits ends in 0. -/
def evenSignificand (fmt : FFormat) (z : Nat) : Prop := ∃ m e : Nat, m % 2 = 0 ∧ m < 2 ^ fmt.prec ∧ z = m * 2 ^ e

/-- `r` is the exact value `num / den` units rounded once (00_scope.md R13): it is a value of the format, none is nearer,
and where another is as near, the significand of `r` is even. Distances are taken times the magnitude of `den`. -/
def roundedOnce (fmt : FFormat) (num den : Int) (r : FVal) : Prop :=
  representable fmt r.units.natAbs ∧
    ∀ z : Int, representable fmt z.natAbs →
      (r.units * den - num).natAbs ≤ (z * den - num).natAbs ∧
      (z ≠ r.units → (r.units * den - num).natAbs = (z * den - num).natAbs → evenSignificand fmt r.units.natAbs)

/-! ## The invariant -/

/-- The fault registers agree (60_exceptions.md R231, R233): outside the fault state nothing is recorded; in it the cause
is `LEVELS_LT_2` and `FAULTCMD` is a `QEDN` word with fewer than two levels. -/
def State.faultRecorded (s : State) : Prop :=
  (s.status.fault = false ∧ s.status.cause = 0 ∧ s.faultCmd = 0) ∨
    (s.status.fault = true ∧ s.status.cause = 1 ∧ faultingWord s.faultCmd = true)

/-- The metadata registers agree (10_state.md R38, 45_bit_packers.md R206, R208): all zero before any pack, and after one
the length is that depth's row length times the height, for a grid that fitted. -/
def State.metadataAgrees (s : State) : Prop :=
  (s.resBpp = 0 ∧ s.resWidth = 0 ∧ s.resHeight = 0 ∧ s.resModeId = 0 ∧ s.resLen = 0) ∨
    ((s.resBpp = 1 ∨ s.resBpp = 2 ∨ s.resBpp = 3 ∨ s.resBpp = 4) ∧
      s.resLen.toNat = bytesPerRow s.resBpp.toNat s.resWidth.toNat * s.resHeight.toNat ∧
      s.resWidth.toNat * s.resHeight.toNat ≤ s.cfg.maxPix)

/-- What holds between any two transactions. -/
structure State.Inv (s : State) : Prop where
  /-- the parameters are ones the spec admits -/
  cfgOk : s.cfg.wf = true
  /-- the memory is in canonical form -/
  memWf : s.mem.wf
  /-- only bytes of the six memories are held (20_memory.md R64) -/
  memMapped : ∀ p ∈ s.mem, inWindow s.cfg.maxPix p.1 1 = true
  /-- no `CMD` write is in progress -/
  busIdle : s.busData = 0
  /-- the fault registers agree -/
  fault : s.faultRecorded
  /-- the metadata registers agree -/
  metadata : s.metadataAgrees

end Sys2Proof.Machine
end

