-- ==== Sys2Proof/Certificates/Slice0/Obligations.lean ====
section
/-! DEFINITION. The statements about the model that the provers settle. Each formalises rules of spec/, which its
docstring and OBLIGATIONS.json name. Where a clause rests on a choice of the model its docstring names the log entry. -/

open Sys2Proof Sys2Proof.Machine

/-! ## Encoding (30_encoding.md) -/

/-- Command words written out in 30_encoding.md R100 and 95_test_vectors.md V50 decode to the commands they stand for. -/
def Obligations.SpecWordsDecode : Prop :=
  ([0x00000000, 0xFFFC0000, 0x0003FFF1, 0x00008002, 0x0000FF03, 0x00008004, 0x00008014, 0x000080F4].map
      (fun c : Word => decodeWord c)
    = [.nop, .nop, .tone, .qthr 128, .qord 255, .qedbFs 128, .qedbJjn 128, .qedbK15 128]) ∧
  ([0x00000405, 0x00001015, 0x00000105, 0x00000206, 0x0000F206, 0x00020216, 0x00020F96, 0x000000A6].map
      (fun c : Word => decodeWord c)
    = [.qednFs 4, .qednJjn 16, .qednFs 1, .qpalNone 3 false, .qpalNone 3 false, .qpalFs 3 true,
        .qpalSierralite 16 true, .qpalK10 1 false]) ∧
  ([0x00000007, 0x00010008, 0x00010009, 0x0000000A, 0x0000000B, 0x0000000C, 0x0000000D, 0x0000000E,
      0xFFFFFFFF].map (fun c : Word => decodeWord c)
    = [.reservedOp7, .pack1 true, .pack2, .pack3, .pack4 false, .reservedOp12, .reservedOp13, .reservedOp14,
        .reservedOp15])

/-- Decoding the bytes of an encoded well-formed command gives it back, every operand at every value, and leaves the
bytes after them. -/
def Obligations.DecodeInvertsEncode : Prop :=
  ∀ (i : Instr) (rest : List Byte), i.wf = true → decode (encodeBytes i ++ rest) = .ok (i, rest)

/-- Two words with the same opcode that agree on the fields their format reads are the same command (R98). -/
def Obligations.IgnoredBitsDoNotMatter : Prop :=
  ∀ c c' : Word, opField c = opField c' → c &&& readMask (opField c) = c' &&& readMask (opField c) →
    decodeWord c = decodeWord c'

/-- Every word decodes to a well-formed command, and encoding that command gives the word with exactly its ignored bits
cleared (R98, R100, R102). -/
def Obligations.ReencodingClearsIgnoredBits : Prop :=
  ∀ c : Word, (decodeWord c).wf = true ∧ encode (decodeWord c) = c &&& readMask (opField c)

/-! ## Steps and commands that change no memory -/

/-- A 32-bit write of `c` to `CMD`: ignored in the fault state, else the command the bytes of `c` decode to is executed,
with `c` on the bus, and the write completes normally. `CMD` stores nothing: it reads 0 (10_state.md R28). The fields
`pending`, `busData` and `response` are the model's own (log 1, 4, 5). -/
def Obligations.CmdWriteRunsTheDecodedCommand : Prop :=
  ∀ (s : State) (c : Word) (rest : List HostOp) (i : Instr),
    s.pending = .write 0x10 .word c :: rest → decode (wordBytes c) = .ok (i, []) →
    (s.status.fault = true → step s = .next { s with pending := rest, response := .writeDone }) ∧
    (s.status.fault = false →
      (∀ t, exec i { s with pending := rest, busData := c } = .next t →
        step s = .next { t with busData := 0, response := .writeDone }) ∧
      (∀ f, exec i { s with pending := rest, busData := c } = .fault f → step s = .fault f) ∧
      (∀ r, exec i { s with pending := rest, busData := c } = .refused r → step s = .refused r)) ∧
    s.readReg .cmd = 0

/-- With no transaction the engine is idle and holds all state (60_exceptions.md R246, which the spec marks
`[derived: from 10_state.md rule R22]`; that the host's side is plain data is log 1). -/
def Obligations.IdleHoldsAllState : Prop :=
  ∀ s : State, s.pending = [] → step s = .next s

/-- `NOP` has no effect, and a `CMD` write of it, in the fault state or out of it, changes nothing but the host's own side
of the bus (46_pipeline_and_nop.md R220; `pending`, `busData` and `response` are the model's own, log 1, 4, 5). -/
def Obligations.NopChangesNothing : Prop :=
  ∀ (s : State) (c : Word) (rest : List HostOp),
    exec .nop s = .next s ∧
    (s.pending = .write 0x10 .word c :: rest → opField c = 0 → s.busData = 0 →
      step s = .next { s with pending := rest, response := .writeDone })

/-- A reserved opcode sets `ILLOP` and does nothing else (30_encoding.md R97); `pending`, `busData` and `response` are the
model's own (log 1, 4, 5). -/
def Obligations.ReservedOpcodeSetsIllopOnly : Prop :=
  ∀ (s : State) (c : Word) (rest : List HostOp),
    (∀ i ∈ reservedCommands, exec i s = .next { s with status := { s.status with illop := true } }) ∧
    (s.pending = .write 0x10 .word c :: rest → s.status.fault = false → opField c ∈ [7, 12, 13, 14, 15] →
      step s = .next { s with status := { s.status with illop := true }, pending := rest, busData := 0,
                              response := .writeDone })

/-- Fault entry: a `QEDN` word with `LEVELS` 0 or 1, whatever its kernel code and whatever the grid, sets `FAULT`, `CAUSE`
and `FAULTCMD` to the complete word and changes nothing else, and its write completes normally (60_exceptions.md R233);
`pending`, `busData` and `response` are the model's own (log 1, 4, 5). -/
def Obligations.FaultEntryRecordsTheWord : Prop :=
  ∀ (s : State) (c : Word) (rest : List HostOp),
    s.pending = .write 0x10 .word c :: rest → s.status.fault = false → opField c = 5 →
    (imm8Field c).toNat < 2 →
    step s = .next { s with status := { s.status with fault := true, cause := 1 }, faultCmd := c,
                            pending := rest, busData := 0, response := .writeDone }

/-- A step enters the fault state exactly when it is a `CMD` write of a `QEDN` word with fewer than two levels, whatever the
kernel code, the grid and the memories: by `QEDN`, and only by it, before anything else is written
(60_exceptions.md R232); `pending`, `busData` and `response` are the model's own (log 1, 4, 5). -/
def Obligations.FaultExactlyOnQednFewLevels : Prop :=
  ∀ s : State, s.status.fault = false →
    ((∃ t, step s = .next t ∧ t.status.fault = true) ↔
      ∃ c rest, s.pending = .write 0x10 .word c :: rest ∧ opField c = 5 ∧ (imm8Field c).toNat < 2) ∧
    ∀ t, step s = .next t → t.status.fault = true →
      t = { s with status := { t.status with illop := s.status.illop }, faultCmd := t.faultCmd,
                   pending := t.pending, busData := t.busData, response := t.response }

/-- The fault state is left by reset and by nothing else: a reset clears `FAULT`, and after any other step in the fault
state `FAULT`, `CAUSE` and `FAULTCMD` have the values of the first fault (60_exceptions.md R235). -/
def Obligations.FaultStateLeftOnlyByReset : Prop :=
  ∀ s t : State, s.status.fault = true → step s = .next t →
    (∀ rest, s.pending = .reset :: rest → t.status.fault = false) ∧
    ((∀ rest, s.pending ≠ .reset :: rest) →
      t.status.fault = true ∧ t.status.cause = s.status.cause ∧ t.faultCmd = s.faultCmd)

/-- Reset gives every register its reset value, `ID` reading `0x45445131`, and keeps the memories (10_state.md R43); what
the host has yet to issue, the bus data and the last answer are the model's own (log 1, 4, 5), and the parameters
stay (log 3). -/
def Obligations.ResetRestoresRegistersKeepsMemories : Prop :=
  ∀ (s : State) (rest : List HostOp), s.pending = .reset :: rest →
    step s = .next
      { cfg := s.cfg, width := 0, height := 0, modeId := 0,
        status := { fault := false, illop := false, cause := 0 }, faultCmd := 0,
        resWidth := 0, resHeight := 0, resBpp := 0, resModeId := 0, resLen := 0,
        mem := s.mem, pending := rest, busData := 0, response := .none } ∧
    s.readReg .id = 0x45445131#32

/-! ## Host port (10_state.md section 2, 20_memory.md) -/

/-- A 32-bit read of each register returns its value, unused bits 0, and changes nothing but the answer
(10_state.md R22, R23, R29). -/
def Obligations.RegisterReadsReturnTheirFields : Prop :=
  ∀ (s : State) (rest : List HostOp) (p : Nat × Word),
    p ∈ [(0x00, 0x45445131#32), (0x04, s.width.setWidth 32), (0x08, s.height.setWidth 32), (0x0C, s.modeId),
         (0x10, 0#32),
         (0x14, BitVec.ofNat 32 (s.status.fault.toNat + 2 * s.status.illop.toNat + 16 * s.status.cause.toNat)),
         (0x18, s.faultCmd), (0x20, s.resWidth.setWidth 32), (0x24, s.resHeight.setWidth 32),
         (0x28, s.resBpp.setWidth 32), (0x2C, s.resModeId), (0x30, s.resLen)] →
    s.pending = .read p.1 .word :: rest →
    step s = .next { s with pending := rest, response := .readData p.2 }

/-- A 32-bit write of each register but `CMD`: `WIDTH` and `HEIGHT` keep 16 bits, `MODEID` all of them, `STATUS` bit 1
clears `ILLOP`, and each of the seven read-only registers ignores it (10_state.md R23 to R27, R29, R37, R38). That an
ignored write completes normally is the model's inference (log 5). -/
def Obligations.RegisterWritesStoreOrAreIgnored : Prop :=
  ∀ (s : State) (rest : List HostOp) (v : Word) (p : Nat × State),
    p ∈ [(0x04, { s with width := v.setWidth 16 }), (0x08, { s with height := v.setWidth 16 }),
         (0x0C, { s with modeId := v }),
         (0x14, { s with status := { s.status with illop := s.status.illop && !v.getLsbD 1 } }),
         (0x00, s), (0x18, s), (0x20, s), (0x24, s), (0x28, s), (0x2C, s), (0x30, s)] →
    s.pending = .write p.1 .word v :: rest →
    step s = .next { p.2 with pending := rest, response := .writeDone }

/-- A transaction that is not accepted gets an error response and changes no state, a `CMD` write among them executes
nothing, and an accepted one never gets an error response (20_memory.md R69, 60_exceptions.md R237). -/
def Obligations.BusErrorExactlyWhenNotAccepted : Prop :=
  ∀ (s : State) (rest : List HostOp) (a : Nat) (w : AccessWidth) (v : Word),
    (s.pending = .read a w :: rest ∨ s.pending = .write a w v :: rest) →
    (¬ acceptedAccess s.cfg.maxPix a w.bytes → step s = .next { s with pending := rest, response := .busError }) ∧
    (acceptedAccess s.cfg.maxPix a w.bytes → ∀ t, step s = .next t → t.response ≠ .busError)

/-- An accepted write to a memory stores the low bytes of its data, little-endian, and changes no other byte and no
register (20_memory.md R65, R67). -/
def Obligations.HostWriteStoresLittleEndian : Prop :=
  ∀ (s : State) (rest : List HostOp) (a : Nat) (w : AccessWidth) (v : Word),
    s.pending = .write a w v :: rest → acceptedAccess s.cfg.maxPix a w.bytes → 0x100 ≤ a →
    ∃ t, step s = .next t ∧ t = { s with mem := t.mem, pending := rest, response := .writeDone } ∧
      (∀ k < w.bytes, t.mem.read (a + k) = some (v.extractLsb' (8 * k) 8)) ∧
      ∀ x, x < a ∨ a + w.bytes ≤ x → t.mem.read x = s.mem.read x

/-- An accepted read of a memory whose bytes have been written returns them little-endian and changes nothing but the
answer (20_memory.md R65, R66). That a narrow read answers 0 above its bytes (log 5), and that a read of a byte
nothing has written faults (log 2), are the model's choices. -/
def Obligations.HostReadReturnsLittleEndian : Prop :=
  ∀ (s : State) (rest : List HostOp) (a : Nat) (w : AccessWidth),
    s.pending = .read a w :: rest → acceptedAccess s.cfg.maxPix a w.bytes → 0x100 ≤ a →
    ((∀ k < w.bytes, (s.mem.read (a + k)).isSome) →
      ∃ v : Word, step s = .next { s with pending := rest, response := .readData v } ∧
        v.toNat < 2 ^ (8 * w.bytes) ∧ ∀ k < w.bytes, s.mem.read (a + k) = some (v.extractLsb' (8 * k) 8)) ∧
    ((∃ k < w.bytes, s.mem.read (a + k) = none) → step s = .fault .unwrittenElement)

/-- The elements of the memories are at the addresses of the map (20_memory.md R63, R64). -/
def Obligations.ElementsAreAtTheMapsAddresses : Prop :=
  ∀ i c : Nat,
    chanAddr .pal i c = 0x100 + 4 * i + c ∧ chanAddr .src i c = 0x01000000 + 4 * i + c ∧
      elemAddr .gray i = 0x02000000 + i ∧ elemAddr .idx i = 0x03000000 + i ∧
      chanAddr .prev i c = 0x04000000 + 4 * i + c ∧ elemAddr .pbuf i = 0x05000000 + i

/-! ## All commands -/

/-- When a command completes, faults and is refused, for every command and every state. It completes exactly when it does
not visit the grid, or the grid fits and every element it reads has been written (70_reset_and_hazards.md R262 to
R265). That the two other cases stop is what 93_implementation_defined.md U1 and U3 say a model should do (log 2, 7); that
`QPAL` reads no palette entry on an empty grid is the model's inference (log 11). -/
def Obligations.CommandCompletesExactlyWhenReady : Prop :=
  ∀ (i : Instr) (s : State),
    ((∃ t, exec i s = .next t) ↔ s.ready i) ∧
    (exec i s = .refused .gridExceedsCapacity ↔
      (commandKind i).visitsGrid = true ∧ s.cfg.maxPix < s.pixels) ∧
    (exec i s = .fault .unwrittenElement ↔
      (commandKind i).visitsGrid = true ∧ s.pixels ≤ s.cfg.maxPix ∧
        ∃ a ∈ (commandKind i).reads s.pixels, s.mem.read a = none)

/-- Which state a command may change (10_state.md R41 and 20_memory.md R77, both marked `[derived: ...]`). Memory: exactly the elements its kind writes,
each of which it writes. Registers: none for `TONE` and the quantizers, `RES_*` for the packers, `STATUS` and `FAULTCMD`
for a fault, `STATUS.ILLOP` for a reserved opcode (60_exceptions.md R236), nothing at all for `NOP`. -/
def Obligations.CommandsWriteOnlyTheirOutputs : Prop :=
  ∀ (i : Instr) (s t : State), exec i s = .next t →
    sameOutside ((commandKind i).writes s.gridW s.gridH) s t ∧
    t.written ((commandKind i).writes s.gridW s.gridH) ∧
    match commandKind i with
    | .nop => t = s
    | .reserved => t = { s with status := { s.status with illop := t.status.illop } }
    | .tone | .gray _ | .palette _ => sameButMemory s t
    | .levels l =>
      if l.toNat < 2 then t = { s with status := { t.status with illop := s.status.illop }, faultCmd := t.faultCmd }
      else sameButMemory s t
    | .packIndex _ | .packSample =>
      t = { s with mem := t.mem, resWidth := t.resWidth, resHeight := t.resHeight, resBpp := t.resBpp,
                   resModeId := t.resModeId, resLen := t.resLen }

/-- A command is a pure function of its inputs (00_scope.md R8): two machines that agree on the parameters, on `WIDTH` and
`HEIGHT` and on the bytes the command reads get the same bytes written and the same flags and result registers written,
whatever else differs. Only `FAULTCMD` depends on the word on the bus (`busData`, the model's own, log 4), and only
`RES_MODEID` on `MODEID`. That `QPAL` reads no palette entry on an empty grid is the model's inference (log 11). -/
def Obligations.CommandsArePureFunctionsOfTheirInputs : Prop :=
  ∀ (i : Instr) (s s' t : State),
    s'.cfg = s.cfg → s'.width = s.width → s'.height = s.height →
    (∀ a ∈ (commandKind i).reads s.pixels, s'.mem.read a = s.mem.read a) →
    exec i s = .next t →
    ∃ t', exec i s' = .next t' ∧
      (∀ a ∈ (commandKind i).writes s.gridW s.gridH, t'.mem.read a = t.mem.read a) ∧
      match commandKind i with
      | .packIndex _ | .packSample =>
        t'.resWidth = t.resWidth ∧ t'.resHeight = t.resHeight ∧ t'.resBpp = t.resBpp ∧ t'.resLen = t.resLen ∧
          (s'.modeId = s.modeId → t'.resModeId = t.resModeId)
      | .levels l =>
        l.toNat < 2 → t'.status.fault = t.status.fault ∧ t'.status.cause = t.status.cause ∧
          (s'.busData = s.busData → t'.faultCmd = t.faultCmd)
      | .reserved => t'.status.illop = t.status.illop
      | .nop | .tone | .gray _ | .palette _ => True

/-- Executing a command a second time changes nothing more: no command reads a memory it writes (20_memory.md R70, marked
`[derived: ...]`). -/
def Obligations.RepeatingACommandChangesNothing : Prop :=
  ∀ (i : Instr) (s t : State), i.wf = true → s.cfg.wf = true → s.mem.wf → exec i s = .next t → exec i t = .next t

/-- An index a quantizer emits is in its declared range: below 2 for the binary quantizers, below `LEVELS` for `QEDN`,
below `NPAL` for `QPAL` (42_gray_error_diffusion.md R145, 44_color_error_diffusion.md R195, marked `[derived: ...]`). -/
def Obligations.EmittedIndicesAreInRange : Prop :=
  ∀ (i : Instr) (s t : State), s.cfg.wf = true → i.wf = true → exec i s = .next t →
    ∀ bound, (commandKind i = .gray bound ∨ commandKind i = .palette bound ∨
        ∃ l : Byte, commandKind i = .levels l ∧ 2 ≤ l.toNat ∧ bound = l.toNat) →
      ∀ p < s.pixels, ∃ v, t.mem.read (elemAddr .idx p) = some v ∧ v.toNat < bound

/-- An empty grid is legal: the loops run zero times, so `TONE` and the quantizers change nothing, a packer sets
`RES_LEN` to 0 and the other `RES_*` as usual, and `QEDN` still faults with fewer than two levels, whatever has been
written (70_reset_and_hazards.md R268). That `QPAL` then completes with palette entries unwritten is the model's inference
(log 11): its matcher runs inside the loop over pixels (43_palette_matcher.md R172, R174, 44_color_error_diffusion.md
R183), while 20_memory.md R77 lists the entries without an exception. `busData`, the word `FAULTCMD` records, is the
model's own (log 4). -/
def Obligations.EmptyGridIsLegal : Prop :=
  ∀ (i : Instr) (s : State), (s.width = 0 ∨ s.height = 0) →
    match commandKind i with
    | .nop | .tone | .gray _ | .palette _ => exec i s = .next s
    | .levels l =>
      if l.toNat < 2 then
        exec i s = .next { s with status := { s.status with fault := true, cause := 1 }, faultCmd := s.busData }
      else exec i s = .next s
    | .packIndex bpp =>
      exec i s = .next { s with resWidth := s.width, resHeight := s.height, resBpp := BitVec.ofNat 3 bpp,
                                resModeId := s.modeId, resLen := 0 }
    | .packSample =>
      exec i s = .next { s with resWidth := s.width, resHeight := s.height, resBpp := 4,
                                resModeId := s.modeId, resLen := 0 }
    | .reserved => exec i s = .next { s with status := { s.status with illop := true } }

/-- A reserved kernel code executes exactly as Floyd-Steinberg, in the gray and in the color family (30_encoding.md R95,
R96). -/
def Obligations.ReservedKernelCodesAreFloydSteinberg : Prop :=
  ∀ (ksel : BitVec 4) (imm : Byte) (npal : Nat) (preinv : Bool) (s : State),
    (2 ≤ ksel.toNat → exec (qedbOf ksel imm) s = exec (.qedbFs imm) s ∧ exec (qednOf ksel imm) s = exec (.qednFs imm) s) ∧
    (10 ≤ ksel.toNat → exec (qpalOf ksel npal preinv) s = exec (.qpalFs npal preinv) s)

/-! ## Tone Reducer (40_tone_reducer.md) -/

/-- `TONE`: `OP` 1; every `GRAY` element of the grid is `(2126R + 7152G + 722B + 5000) div 10000` of its `SRC` pixel in
the exact arithmetic of EDQ, and nothing else changes (R121). What it is where the parameter `TONE_ARITH` has its
other value is ToneInTheOtherArithmetic's. -/
def Obligations.ToneWritesLuminance : Prop :=
  (∀ c : Word, opField c = 1 → decodeWord c = .tone) ∧
  ∀ s : State, s.cfg.wf = true → s.pixels ≤ s.cfg.maxPix → s.written (chanAddrs .src s.pixels 3) →
    ∃ t, exec .tone s = .next t ∧ sameButMemory s t ∧ sameOutside (elemAddrs .gray s.pixels) s t ∧
      (s.cfg.toneArith = .exact →
        ∀ i < s.pixels, ∀ r g b, s.mem.read (chanAddr .src i 0) = some r → s.mem.read (chanAddr .src i 1) = some g →
          s.mem.read (chanAddr .src i 2) = some b →
          t.mem.read (elemAddr .gray i) =
            some (BitVec.ofNat 8 ((2126 * r.toNat + 7152 * g.toNat + 722 * b.toNat + 5000) / 10000)))

/-- The luminance is the integer nearest to `0.2126 R + 0.7152 G + 0.0722 B`, a tie going up, it needs no clamp, and a gray
pixel maps to itself (R120). -/
def Obligations.LuminanceIsTheNearestInteger : Prop :=
  ∀ p : Rgb, lumaExact p ≤ 255 ∧
    20000 * lumaExact p ≤ 2 * (2126 * p.r.toNat + 7152 * p.g.toNat + 722 * p.b.toNat) + 10000 ∧
    2 * (2126 * p.r.toNat + 7152 * p.g.toNat + 722 * p.b.toNat) + 10000 < 20000 * (lumaExact p + 1) ∧
    (p.r = p.g → p.g = p.b → lumaExact p = p.r.toNat)

/-! ## Stateless quantizers (41_stateless_quantizers.md) -/

/-- `QTHR thr`: `OP` 2, `THR` bits 15:8; a pixel is light, index 1 and white, when `GRAY[i] > THR`, else dark, index 0 and
black, alpha 255 either way, and nothing else changes (R131, output convention R130). -/
def Obligations.QthrIsAStrictThreshold : Prop :=
  (∀ c : Word, opField c = 2 → decodeWord c = .qthr (imm8Field c)) ∧
  ∀ (thr : Byte) (s : State), s.cfg.wf = true → s.pixels ≤ s.cfg.maxPix → s.written (elemAddrs .gray s.pixels) →
    ∃ t, exec (.qthr thr) s = .next t ∧ sameButMemory s t ∧ sameOutside (pixelAddrs s.pixels) s t ∧
      ∀ i < s.pixels, ∀ v, s.mem.read (elemAddr .gray i) = some v →
        (thr.toNat < v.toNat → t.pixelIs i 1 255 255 255 255) ∧ (v.toNat ≤ thr.toNat → t.pixelIs i 0 0 0 0 255)

/-- `QORD thr`: `OP` 3, `THR` bits 15:8; the pixel at `(x, y)` is compared by `4*GRAY > 3*p + THR` with the pattern
`[[0, 128], [192, 64]]` indexed by `(y & 1, x & 1)`, and greater is dark or light as `ORD_DARK_IF_GREATER` says (R132, R133). -/
def Obligations.QordFollowsThePattern : Prop :=
  (∀ c : Word, opField c = 3 → decodeWord c = .qord (imm8Field c)) ∧
  ∀ (thr : Byte) (s : State), s.cfg.wf = true → s.pixels ≤ s.cfg.maxPix → s.written (elemAddrs .gray s.pixels) →
    ∃ t, exec (.qord thr) s = .next t ∧ sameButMemory s t ∧ sameOutside (pixelAddrs s.pixels) s t ∧
      ∀ y < s.gridH, ∀ x < s.gridW, ∀ v, s.mem.read (elemAddr .gray (y * s.gridW + x)) = some v →
        ∀ p : Nat, (y % 2, x % 2, p) ∈ [(0, 0, 0), (0, 1, 128), (1, 0, 192), (1, 1, 64)] →
          ((3 * p + thr.toNat < 4 * v.toNat ↔ s.cfg.ordDarkIfGreater = true) →
            t.pixelIs (y * s.gridW + x) 0 0 0 0 255) ∧
          (¬ (3 * p + thr.toNat < 4 * v.toNat ↔ s.cfg.ordDarkIfGreater = true) →
            t.pixelIs (y * s.gridW + x) 1 255 255 255 255)

/-- Plain thresholding is idempotent on binary grids exactly for `THR <= 254`: such a grid comes back unchanged as the
preview, and at `THR = 255` a sample of 255 becomes 0 (R135, marked `[derived: from rule R131]`). -/
def Obligations.QthrIsIdempotentBelow255 : Prop :=
  ∀ (thr : Byte) (s : State), s.cfg.wf = true → s.pixels ≤ s.cfg.maxPix →
    (∀ i < s.pixels, s.mem.read (elemAddr .gray i) = some 0 ∨ s.mem.read (elemAddr .gray i) = some 255) →
    ∃ t, exec (.qthr thr) s = .next t ∧
      (thr.toNat ≤ 254 → ∀ i < s.pixels, t.mem.read (chanAddr .prev i 0) = s.mem.read (elemAddr .gray i)) ∧
      (thr.toNat = 255 → ∀ i < s.pixels, t.mem.read (chanAddr .prev i 0) = some 0)

/-! ## Gray error diffusion (42_gray_error_diffusion.md) -/

/-- The sixteen `QEDB` commands (`OP` 4): working values and errors exist such that, for each pixel in raster order, its
working value is its sample with the shares of all earlier pixels added and clamped in that order, it is light when that
value exceeds `THR`, and its error is the working value minus 255 or 0 (R142, R140, R141). -/
def Obligations.QedbDiffusesInRasterOrder : Prop :=
  (∀ c : Word, opField c = 4 → decodeWord c = qedbOf (kselField c) (imm8Field c)) ∧
  ∀ (thr : Byte) (s : State) (p : Instr × KernelId), p ∈ qedbCommands thr →
    s.cfg.wf = true → s.pixels ≤ s.cfg.maxPix → s.written (elemAddrs .gray s.pixels) →
    ∃ (t : State) (val err : Nat → FVal),
      exec p.1 s = .next t ∧ sameButMemory s t ∧ sameOutside (pixelAddrs s.pixels) s t ∧
      ∀ before pos after, scanRaster s.gridW s.gridH = before ++ pos :: after →
        ∃ v, s.mem.read (elemAddr .gray (pos.index s.gridW)) = some v ∧
          val (pos.index s.gridW) =
            pulledValue s.cfg.fmt (s.cfg.kernels.get p.2) s.gridW s.gridH err before (pos.index s.gridW)
              (toF s.cfg.fmt v.toNat) ∧
          (fgt (val (pos.index s.gridW)) (toF s.cfg.fmt thr.toNat) = true →
            err (pos.index s.gridW) = fsub s.cfg.fmt (val (pos.index s.gridW)) (toF s.cfg.fmt 255) ∧
              t.pixelIs (pos.index s.gridW) 1 255 255 255 255) ∧
          (fgt (val (pos.index s.gridW)) (toF s.cfg.fmt thr.toNat) = false →
            err (pos.index s.gridW) = fsub s.cfg.fmt (val (pos.index s.gridW)) (toF s.cfg.fmt 0) ∧
              t.pixelIs (pos.index s.gridW) 0 0 0 0 255)

/-- The sixteen `QEDN` commands (`OP` 5): with fewer than two levels they fault before anything else; else, for each pixel in
serpentine order, its working value is its sample with the shares of all earlier pixels added and clamped in that order,
its level is `round(val / step)` clamped to 0 and `LEVELS - 1`, its error is the value minus `k * step`, and its
preview sample is that product rounded and limited to 255 (R145, R143, R144, R150). `busData`, the word `FAULTCMD`
records on the fault, is the model's own (log 4). -/
def Obligations.QednDiffusesInSerpentineOrder : Prop :=
  (∀ c : Word, opField c = 5 → decodeWord c = qednOf (kselField c) (imm8Field c)) ∧
  ∀ (levels : Byte) (s : State) (p : Instr × KernelId), p ∈ qednCommands levels →
    (levels.toNat < 2 →
      exec p.1 s = .next { s with status := { s.status with fault := true, cause := 1 }, faultCmd := s.busData }) ∧
    (2 ≤ levels.toNat → s.cfg.wf = true → s.pixels ≤ s.cfg.maxPix → s.written (elemAddrs .gray s.pixels) →
      ∃ (t : State) (val err : Nat → FVal),
        exec p.1 s = .next t ∧ sameButMemory s t ∧ sameOutside (pixelAddrs s.pixels) s t ∧
        ∀ before pos after, scanSerpentine s.gridW s.gridH = before ++ pos :: after →
          ∃ v, s.mem.read (elemAddr .gray (pos.index s.gridW)) = some v ∧
            val (pos.index s.gridW) =
              pulledValue s.cfg.fmt (s.cfg.kernels.get p.2) s.gridW s.gridH err before (pos.index s.gridW)
                (toF s.cfg.fmt v.toNat) ∧
            ∃ (step rec' : FVal) (k sample : Int),
              step = fdiv s.cfg.fmt (toF s.cfg.fmt 255) (toF s.cfg.fmt ((levels.toNat : Int) - 1)) ∧
              k = max 0 (min ((levels.toNat : Int) - 1)
                (roundHAZ s.cfg.fmt (fdiv s.cfg.fmt (val (pos.index s.gridW)) step))) ∧
              rec' = fmul s.cfg.fmt (toF s.cfg.fmt k) step ∧
              err (pos.index s.gridW) = fsub s.cfg.fmt (val (pos.index s.gridW)) rec' ∧
              sample = min 255 (roundHAZ s.cfg.fmt rec') ∧
              t.pixelIs (pos.index s.gridW) (BitVec.ofInt 8 k) (BitVec.ofInt 8 sample) (BitVec.ofInt 8 sample)
                (BitVec.ofInt 8 sample) 255)

/-- At `THR = 255` every `QEDB` command makes every pixel dark, whatever the kernel, since no working value exceeds 255
(R142). -/
def Obligations.QedbAt255IsAllDark : Prop :=
  ∀ (s t : State) (p : Instr × KernelId), p ∈ qedbCommands 255 → s.cfg.wf = true → exec p.1 s = .next t →
    ∀ i < s.pixels, t.pixelIs i 0 0 0 0 255

/-- Diffusion never writes to a pixel already finalized: in raster and in serpentine order, with every kernel of an
admitted table, a tap of the visited pixel lands on a pixel visited later, and on none visited before (R149, marked
`[derived: from rule R141 and the tap tables]`; what an admitted table is, is log 3). -/
def Obligations.DiffusionIsCausal : Prop :=
  ∀ (cfg : Config) (kernel : KernelId) (w h j : Nat) (scan before after : List ScanPos) (pos : ScanPos) (tap : Tap),
    cfg.wf = true → (scan = scanRaster w h ∨ scan = scanSerpentine w h) → scan = before ++ pos :: after →
    tap ∈ (cfg.kernels.get kernel).taps → tapTarget w h pos tap = some j →
    j ∈ after.map (ScanPos.index w) ∧ j ≠ pos.index w ∧ j ∉ before.map (ScanPos.index w)

/-- The taps of one kernel address distinct neighbours, so their order does not matter: an element of the working buffer
changes by the one tap that lands on it, or not at all (R141, 44_color_error_diffusion.md R194, both marked
`[derived: ...]` here). -/
def Obligations.OneTapAtMostReachesANeighbour : Prop :=
  ∀ (fmt : FFormat) (k : Kernel) (w h : Nat) (pos : ScanPos) (err : FVal) (wb : List FVal) (j : Nat),
    k.wf = true → (pos.dir = 1 ∨ pos.dir = -1) →
    (∀ tap ∈ k.taps, tapTarget w h pos tap = some j →
      (diffuse fmt k w h pos err wb)[j]? =
        wb[j]?.map fun v => clampF fmt (fadd fmt v (fdiv fmt (fmul fmt err (toF fmt tap.w)) (toF fmt k.div)))) ∧
    ((∀ tap ∈ k.taps, tapTarget w h pos tap ≠ some j) → (diffuse fmt k w h pos err wb)[j]? = wb[j]?)

/-- Every working value stays in `[0, 255]`: the seeds are, and diffusing any error by any kernel keeps it so
(R141, 44_color_error_diffusion.md R195, marked `[derived: ...]`). The clamp that does it answers 0 for a value below 0,
255 for one above 255, and a value in between itself (00_scope.md R14). -/
def Obligations.WorkingValuesStayInRange : Prop :=
  ∀ (fmt : FFormat) (k : Kernel) (w h : Nat) (pos : ScanPos) (err : FVal) (wb : List FVal) (gray : List Byte)
    (preinv : Bool) (src : List Rgba),
    (∀ v ∈ seedGray fmt gray, inSampleRange fmt v) ∧
    (∀ v ∈ (seedColor fmt preinv src).r ++ (seedColor fmt preinv src).g ++ (seedColor fmt preinv src).b,
      inSampleRange fmt v) ∧
    ((∀ v ∈ wb, inSampleRange fmt v) → ∀ v ∈ diffuse fmt k w h pos err wb, inSampleRange fmt v) ∧
    ∀ v : FVal,
      (v.units < (toF fmt 0).units → clampF fmt v = toF fmt 0) ∧
      ((toF fmt 255).units < v.units → clampF fmt v = toF fmt 255) ∧
      ((toF fmt 0).units ≤ v.units → v.units ≤ (toF fmt 255).units → clampF fmt v = v)

/-- Both scans, position by position: row `y` is visited after all rows above it, raster left to right, serpentine left to
right on even rows and right to left on odd ones, the direction with it, and each visits every pixel exactly once
(R142, R145). -/
def Obligations.ScansVisitEachPixelOnceInOrder : Prop :=
  ∀ w h : Nat,
    (scanRaster w h).length = w * h ∧ (scanSerpentine w h).length = w * h ∧
    (∀ y < h, ∀ c < w, (scanRaster w h)[y * w + c]? = some ⟨c, y, 1⟩) ∧
    (∀ y < h, ∀ c < w, (scanSerpentine w h)[y * w + c]? =
      some (if y % 2 = 0 then ⟨c, y, 1⟩ else ⟨w - 1 - c, y, -1⟩)) ∧
    (scanRaster w h).map (ScanPos.index w) = List.range (w * h) ∧
    ((scanSerpentine w h).map (ScanPos.index w)).Perm (List.range (w * h))

/-- Where every tap lands, from every pixel, in either direction: at column `x + dir*dx` of row `y + dy` when both lie in
the grid, each tested on its own, and nowhere otherwise, its share then being dropped (R141, 20_memory.md R76). So on a
right-to-left row a tap defined as `dx = +1` writes to the pixel at `x - 1`, and from column 0 to none (R145). -/
def Obligations.TapsAreMirroredOnRightToLeftRows : Prop :=
  ∀ (w h : Nat) (pos : ScanPos) (tap : Tap),
    (∀ col : Nat, (col : Int) = pos.x + pos.dir * tap.dx → col < w → pos.y + tap.dy < h →
      tapTarget w h pos tap = some ((pos.y + tap.dy) * w + col)) ∧
    (pos.x + pos.dir * tap.dx < 0 ∨ (w : Int) ≤ pos.x + pos.dir * tap.dx ∨ h ≤ pos.y + tap.dy →
      tapTarget w h pos tap = none ∧
        ∀ (fmt : FFormat) (k : Kernel) (err : FVal) (wb : List FVal), applyTap fmt k w h pos err wb tap = wb) ∧
    (pos.dir = -1 → tap.dx = 1 → tap.dy = 0 → pos.x < w → pos.y < h →
      (0 < pos.x → tapTarget w h pos tap = some (pos.y * w + (pos.x - 1))) ∧
        (pos.x = 0 → tapTarget w h pos tap = none))

/-! ## Palette commands (43_palette_matcher.md, 44_color_error_diffusion.md) -/

/-- `QPAL.NONE`: `OP` 6, `KSEL` 0; each pixel gets the lowest index of a palette entry at least squared distance from the
optionally inverted source colour, and the preview shows that entry's colour with the source's alpha (R174, R175). -/
def Obligations.QpalNoneEmitsTheNearestEntry : Prop :=
  (∀ c : Word, opField c = 6 → kselField c = 0 →
    decodeWord c = .qpalNone ((npalm1Field c).toNat + 1) (preinvField c)) ∧
  ∀ (npal : Nat) (preinv : Bool) (s : State), (Instr.qpalNone npal preinv).wf = true →
    s.cfg.wf = true → s.pixels ≤ s.cfg.maxPix →
    s.written (chanAddrs .src s.pixels 4) → s.written (chanAddrs .pal npal 3) →
    ∃ t, exec (.qpalNone npal preinv) s = .next t ∧ sameButMemory s t ∧ sameOutside (pixelAddrs s.pixels) s t ∧
      ∃ pal : List Rgb, pal.length = npal ∧
        (∀ j (h : j < pal.length), s.mem.read (chanAddr .pal j 0) = some pal[j].r ∧
          s.mem.read (chanAddr .pal j 1) = some pal[j].g ∧ s.mem.read (chanAddr .pal j 2) = some pal[j].b) ∧
        ∀ i < s.pixels, ∃ (r g b a : Byte) (j : Nat) (hj : j < pal.length) (dist : Rgb → Int),
          s.mem.read (chanAddr .src i 0) = some r ∧ s.mem.read (chanAddr .src i 1) = some g ∧
          s.mem.read (chanAddr .src i 2) = some b ∧ s.mem.read (chanAddr .src i 3) = some a ∧
          (∀ e, dist e =
            ((if preinv then 255 - (r.toNat : Int) else r.toNat) - e.r.toNat) ^ 2 +
              ((if preinv then 255 - (g.toNat : Int) else g.toNat) - e.g.toNat) ^ 2 +
              ((if preinv then 255 - (b.toNat : Int) else b.toNat) - e.b.toNat) ^ 2) ∧
          (∀ k (hk : k < pal.length), dist pal[j] ≤ dist pal[k]) ∧
          (∀ k (hk : k < pal.length), k < j → dist pal[j] < dist pal[k]) ∧
          t.pixelIs i (BitVec.ofNat 8 j) pal[j].r pal[j].g pal[j].b a

/-- The fifteen `QPAL` commands with a kernel (`OP` 6, `KSEL` not 0): for each pixel in serpentine order and each channel,
the working value is the optionally inverted source channel with the shares of all earlier pixels added and clamped in
that order; the pixel gets the lowest index of an entry at least distance `((dr*dr + dg*dg) + db*db)` in `F`; its error
is the working value minus that entry's channel; the preview is that entry's colour with the source's alpha (R183, R180 to R182). -/
def Obligations.QpalDiffusesInSerpentineOrder : Prop :=
  (∀ c : Word, opField c = 6 →
    decodeWord c = qpalOf (kselField c) ((npalm1Field c).toNat + 1) (preinvField c)) ∧
  ∀ (npal : Nat) (preinv : Bool) (s : State) (p : Instr × KernelId), p ∈ qpalCommands npal preinv →
    p.1.wf = true → s.cfg.wf = true → s.pixels ≤ s.cfg.maxPix →
    s.written (chanAddrs .src s.pixels 4) → s.written (chanAddrs .pal npal 3) →
    ∃ (t : State) (valR valG valB errR errG errB : Nat → FVal) (pal : List Rgb),
      exec p.1 s = .next t ∧ sameButMemory s t ∧ sameOutside (pixelAddrs s.pixels) s t ∧
      pal.length = npal ∧
      (∀ j (h : j < pal.length), s.mem.read (chanAddr .pal j 0) = some pal[j].r ∧
        s.mem.read (chanAddr .pal j 1) = some pal[j].g ∧ s.mem.read (chanAddr .pal j 2) = some pal[j].b) ∧
      ∀ before pos after, scanSerpentine s.gridW s.gridH = before ++ pos :: after →
        ∃ (i : Nat) (r g b a : Byte) (j : Nat) (hj : j < pal.length) (dist : Rgb → FVal),
          i = pos.index s.gridW ∧
          s.mem.read (chanAddr .src i 0) = some r ∧ s.mem.read (chanAddr .src i 1) = some g ∧
          s.mem.read (chanAddr .src i 2) = some b ∧ s.mem.read (chanAddr .src i 3) = some a ∧
          valR i = pulledValue s.cfg.fmt (s.cfg.kernels.get p.2) s.gridW s.gridH errR before i
            (toF s.cfg.fmt (if preinv then 255 - (r.toNat : Int) else r.toNat)) ∧
          valG i = pulledValue s.cfg.fmt (s.cfg.kernels.get p.2) s.gridW s.gridH errG before i
            (toF s.cfg.fmt (if preinv then 255 - (g.toNat : Int) else g.toNat)) ∧
          valB i = pulledValue s.cfg.fmt (s.cfg.kernels.get p.2) s.gridW s.gridH errB before i
            (toF s.cfg.fmt (if preinv then 255 - (b.toNat : Int) else b.toNat)) ∧
          (∀ (e : Rgb) (dr dg db : FVal),
            dr = fsub s.cfg.fmt (valR i) (toF s.cfg.fmt e.r.toNat) →
            dg = fsub s.cfg.fmt (valG i) (toF s.cfg.fmt e.g.toNat) →
            db = fsub s.cfg.fmt (valB i) (toF s.cfg.fmt e.b.toNat) →
            dist e = fadd s.cfg.fmt
              (fadd s.cfg.fmt (fmul s.cfg.fmt dr dr) (fmul s.cfg.fmt dg dg)) (fmul s.cfg.fmt db db)) ∧
          (∀ k (hk : k < pal.length), flt (dist pal[k]) (dist pal[j]) = false) ∧
          (∀ k (hk : k < pal.length), k < j → flt (dist pal[j]) (dist pal[k]) = true) ∧
          errR i = fsub s.cfg.fmt (valR i) (toF s.cfg.fmt pal[j].r.toNat) ∧
          errG i = fsub s.cfg.fmt (valG i) (toF s.cfg.fmt pal[j].g.toNat) ∧
          errB i = fsub s.cfg.fmt (valB i) (toF s.cfg.fmt pal[j].b.toNat) ∧
          t.pixelIs i (BitVec.ofNat 8 j) pal[j].r pal[j].g pal[j].b a

/-- On integer working values the matcher in `F` finds the entry the integer matcher finds, in every admitted format
(44_color_error_diffusion.md R181). -/
def Obligations.MatchersAgreeOnIntegers : Prop :=
  ∀ (fmt : FFormat) (pal : List Rgb) (p : Rgb), 24 ≤ fmt.prec →
    matchF fmt pal ⟨toF fmt p.r.toNat, toF fmt p.g.toNat, toF fmt p.b.toNat⟩ = matchInt pal p

/-! ## Packers (45_bit_packers.md) -/

/-- `PACK1 [INV]`: `OP` 8, `INV` bit 16; bit `7 - (x & 7)` of byte `x >> 3` of a row is 1 when pixel `x` is dark after the
optional invert, and every bit no pixel occupies is 0 (R202, R206). -/
def Obligations.Pack1PutsOneBitPerPixel : Prop :=
  (∀ c : Word, opField c = 8 → decodeWord c = .pack1 (invField c)) ∧
  ∀ (inv : Bool) (s : State), s.cfg.wf = true → s.pixels ≤ s.cfg.maxPix → s.written (elemAddrs .idx s.pixels) →
    ∃ t, exec (.pack1 inv) s = .next t ∧ packedFrame 1 ((s.gridW + 7) / 8) s t ∧
      ∀ y < s.gridH, ∀ b < (s.gridW + 7) / 8, ∃ byte : Byte,
        t.mem.read (elemAddr .pbuf (y * ((s.gridW + 7) / 8) + b)) = some byte ∧
        ∀ slot < 8,
          (8 * b + slot < s.gridW → ∀ v, s.mem.read (elemAddr .idx (y * s.gridW + (8 * b + slot))) = some v →
            byte.getLsbD (7 - slot) = !(xor (v.getLsbD 0) inv)) ∧
          (s.gridW ≤ 8 * b + slot → byte.getLsbD (7 - slot) = false)

/-- `PACK2`: `OP` 9; pixel `x` is bits `7 - 2*(x & 3)` and the one below of byte `x >> 2` of its row, the low two bits of its
index, and every bit no pixel occupies is 0 (R203, R206). -/
def Obligations.Pack2PutsTwoBitsPerPixel : Prop :=
  (∀ c : Word, opField c = 9 → decodeWord c = .pack2) ∧
  ∀ s : State, s.cfg.wf = true → s.pixels ≤ s.cfg.maxPix → s.written (elemAddrs .idx s.pixels) →
    ∃ t, exec .pack2 s = .next t ∧ packedFrame 2 ((s.gridW + 3) / 4) s t ∧
      ∀ y < s.gridH, ∀ b < (s.gridW + 3) / 4, ∃ byte : Byte,
        t.mem.read (elemAddr .pbuf (y * ((s.gridW + 3) / 4) + b)) = some byte ∧
        ∀ slot < 4,
          (4 * b + slot < s.gridW → ∀ v, s.mem.read (elemAddr .idx (y * s.gridW + (4 * b + slot))) = some v →
            byte.extractLsb' (6 - 2 * slot) 2 = v.extractLsb' 0 2) ∧
          (s.gridW ≤ 4 * b + slot → byte.extractLsb' (6 - 2 * slot) 2 = 0)

/-- `PACK3`: `OP` 10; the low three bits of pixel `x`'s index and a zero bit below them are the high nibble of byte
`x >> 1` of its row for even `x`, the low one for odd `x`, and a nibble no pixel occupies is 0 (R204, R206). -/
def Obligations.Pack3PutsANibblePerPixel : Prop :=
  (∀ c : Word, opField c = 10 → decodeWord c = .pack3) ∧
  ∀ s : State, s.cfg.wf = true → s.pixels ≤ s.cfg.maxPix → s.written (elemAddrs .idx s.pixels) →
    ∃ t, exec .pack3 s = .next t ∧ packedFrame 3 ((s.gridW + 1) / 2) s t ∧
      ∀ y < s.gridH, ∀ b < (s.gridW + 1) / 2, ∃ byte : Byte,
        t.mem.read (elemAddr .pbuf (y * ((s.gridW + 1) / 2) + b)) = some byte ∧
        ∀ slot < 2,
          (2 * b + slot < s.gridW → ∀ v, s.mem.read (elemAddr .idx (y * s.gridW + (2 * b + slot))) = some v →
            byte.extractLsb' (4 - 4 * slot) 4 = v.extractLsb' 0 3 ++ 0#1) ∧
          (s.gridW ≤ 2 * b + slot → byte.extractLsb' (4 - 4 * slot) 4 = 0)

/-- `PACK4 [INV]`: `OP` 11, `INV` bit 16; the top four bits of pixel `x`'s `PREV.R`, or 15 minus them, are the high nibble of
byte `x >> 1` of its row for even `x`, the low one for odd `x`, and a nibble no pixel occupies is 0 (R205, R206). -/
def Obligations.Pack4PutsTheTopFourBits : Prop :=
  (∀ c : Word, opField c = 11 → decodeWord c = .pack4 (invField c)) ∧
  ∀ (inv : Bool) (s : State), s.cfg.wf = true → s.pixels ≤ s.cfg.maxPix →
    s.written ((List.range s.pixels).map fun i => chanAddr .prev i 0) →
    ∃ t, exec (.pack4 inv) s = .next t ∧ packedFrame 4 ((s.gridW + 1) / 2) s t ∧
      ∀ y < s.gridH, ∀ b < (s.gridW + 1) / 2, ∃ byte : Byte,
        t.mem.read (elemAddr .pbuf (y * ((s.gridW + 1) / 2) + b)) = some byte ∧
        ∀ slot < 2,
          (2 * b + slot < s.gridW → ∀ v, s.mem.read (chanAddr .prev (y * s.gridW + (2 * b + slot)) 0) = some v →
            byte.extractLsb' (4 - 4 * slot) 4 = if inv then 15 - v.extractLsb' 4 4 else v.extractLsb' 4 4) ∧
          (s.gridW ≤ 2 * b + slot → byte.extractLsb' (4 - 4 * slot) 4 = 0)

/-! ## Numbers (00_scope.md) -/

/-- One rounding is to the nearest value of the format, and of two equally near ones to the one with an even significand,
for an exact value `mag / den` in units of the format's least positive value (R13). That a format has no greatest value, so
that this holds of every exact value, is the model's inference (log 8): R13 names a format that has one, which by R16 no
rule reaches. -/
def Obligations.RoundingIsToNearestTiesToEven : Prop :=
  ∀ (fmt : FFormat) (mag den : Nat), 0 < den → 0 < fmt.prec →
    representable fmt (roundMagnitude fmt mag den) ∧
    ∀ z, representable fmt z →
      (((roundMagnitude fmt mag den * den : Nat) : Int) - mag).natAbs ≤ (((z * den : Nat) : Int) - mag).natAbs ∧
      (z ≠ roundMagnitude fmt mag den →
        (((roundMagnitude fmt mag den * den : Nat) : Int) - mag).natAbs = (((z * den : Nat) : Int) - mag).natAbs →
        roundMagnitude fmt mag den / 2 ^ droppedBits fmt (mag / den) % 2 = 0)

/-- `toF` is exact for every integer of magnitude at most `2^24`, in every admitted format: its value is that many times
the `2^qexp` units that make 1, and one the format holds, so that rounding it changes nothing (R13). -/
def Obligations.ToFIsExact : Prop :=
  ∀ (fmt : FFormat) (n : Int), 24 ≤ fmt.prec → n.natAbs ≤ 2 ^ 24 →
    (toF fmt n).units = n * 2 ^ fmt.qexp ∧
    representable fmt (toF fmt n).units.natAbs ∧ roundF fmt (toF fmt n).units 1 = toF fmt n

/-- `roundHAZ` is the nearest integer, a tie going away from zero: for a value of `u` units, of which `2^qexp` make 1
(R15). -/
def Obligations.RoundHazIsNearestTiesAway : Prop :=
  ∀ (fmt : FFormat) (u : Int),
    roundHAZ fmt ⟨-u⟩ = -roundHAZ fmt ⟨u⟩ ∧
    (0 ≤ u →
      2 * roundHAZ fmt ⟨u⟩ * 2 ^ fmt.qexp ≤ 2 * u + 2 ^ fmt.qexp ∧
        2 * u + 2 ^ fmt.qexp < 2 * (roundHAZ fmt ⟨u⟩ + 1) * 2 ^ fmt.qexp)

/-! ## The whole machine -/

/-- No step changes an implementation parameter (00_scope.md R10; that they stand in State is log 3). -/
def Obligations.ParametersNeverChange : Prop :=
  ∀ s t : State, step s = .next t → t.cfg = s.cfg

/-- Every step keeps the invariant: admitted parameters, a canonical memory that holds bytes of the six memories only, an
idle bus, fault registers that record a `QEDN` word with fewer than two levels or nothing, and metadata registers that
agree with a grid that fitted (10_state.md R29, R37, R38, 60_exceptions.md R231, R233, 45_bit_packers.md R206, R208). -/
def Obligations.StepKeepsTheInvariant : Prop :=
  ∀ s t : State, s.Inv → step s = .next t → t.Inv

/-- The machine right after reset meets the invariant. -/
def Obligations.ResetMeetsTheInvariant : Prop := State.reset.Inv

/-! ## More on numbers, parameters and the tone formula -/

/-- The four operations of `F` are the exact result rounded once, to nearest and of two equally near values to the one
with an even significand, whatever the signs, and the two comparisons are exact (00_scope.md R13). A value is a number
of units of which `2^qexp` make 1; that a format has no greatest value is the model's inference (log 8). -/
def Obligations.ArithmeticRoundsTheExactResultOnce : Prop :=
  ∀ (fmt : FFormat) (a b : FVal), 2 ≤ fmt.prec →
    roundedOnce fmt (a.units + b.units) 1 (fadd fmt a b) ∧
    roundedOnce fmt (a.units - b.units) 1 (fsub fmt a b) ∧
    roundedOnce fmt (a.units * b.units) (2 ^ fmt.qexp) (fmul fmt a b) ∧
    (b.units ≠ 0 → roundedOnce fmt (a.units * 2 ^ fmt.qexp) b.units (fdiv fmt a b)) ∧
    (fgt a b = true ↔ b.units < a.units) ∧ (flt a b = true ↔ a.units < b.units)

/-- The model's choice (log 12) for the other value of the parameter `TONE_ARITH`, which is not EDQ's: `TONE` writes the
three products summed left to right in `F` and rounded, each coefficient the value of `F` nearest to its decimal
(40_tone_reducer.md R120 names this candidate). -/
def Obligations.ToneInTheOtherArithmetic : Prop :=
  ∀ s : State, s.cfg.wf = true → s.pixels ≤ s.cfg.maxPix → s.written (chanAddrs .src s.pixels 3) →
    s.cfg.toneArith = .float →
    ∃ t, exec .tone s = .next t ∧ sameButMemory s t ∧ sameOutside (elemAddrs .gray s.pixels) s t ∧
      ∀ i < s.pixels, ∀ r g b, s.mem.read (chanAddr .src i 0) = some r → s.mem.read (chanAddr .src i 1) = some g →
        s.mem.read (chanAddr .src i 2) = some b → ∀ cr cg cb : FVal,
        cr = fdiv s.cfg.fmt (toF s.cfg.fmt 2126) (toF s.cfg.fmt 10000) →
        cg = fdiv s.cfg.fmt (toF s.cfg.fmt 7152) (toF s.cfg.fmt 10000) →
        cb = fdiv s.cfg.fmt (toF s.cfg.fmt 722) (toF s.cfg.fmt 10000) →
        t.mem.read (elemAddr .gray i) = some (BitVec.ofInt 8 (roundHAZ s.cfg.fmt
          (fadd s.cfg.fmt
            (fadd s.cfg.fmt (fmul s.cfg.fmt cr (toF s.cfg.fmt r.toNat)) (fmul s.cfg.fmt cg (toF s.cfg.fmt g.toNat)))
            (fmul s.cfg.fmt cb (toF s.cfg.fmt b.toNat)))))

/-- The kernels of the machine after reset, row by row: for row offsets 0, 1 and 2 the weights at column offsets -2 to 2, 0
where there is no tap, and the divisor (42_gray_error_diffusion.md R146, R147, 44_color_error_diffusion.md R185 to R193,
seven of which the spec marks as general knowledge, log 9). -/
def Obligations.KernelsAreTheRulesTables : Prop :=
  ∀ p ∈ [(KernelId.floydSteinberg, 16, [[0, 0, 0, 7, 0], [0, 3, 5, 1, 0], [0, 0, 0, 0, 0]]),
         (.falseFloydSteinberg, 8, [[0, 0, 0, 3, 0], [0, 0, 3, 2, 0], [0, 0, 0, 0, 0]]),
         (.jarvis, 48, [[0, 0, 0, 7, 5], [3, 5, 7, 5, 3], [1, 3, 5, 3, 1]]),
         (.stucki, 42, [[0, 0, 0, 8, 4], [2, 4, 8, 4, 2], [1, 2, 4, 2, 1]]),
         (.atkinson, 8, [[0, 0, 0, 1, 1], [0, 1, 1, 1, 0], [0, 0, 1, 0, 0]]),
         (.burkes, 32, [[0, 0, 0, 8, 4], [2, 4, 8, 4, 2], [0, 0, 0, 0, 0]]),
         (.sierra, 32, [[0, 0, 0, 5, 3], [2, 4, 5, 4, 2], [0, 2, 3, 2, 0]]),
         (.twoSierra, 16, [[0, 0, 0, 4, 3], [1, 2, 3, 2, 1], [0, 0, 0, 0, 0]]),
         (.sierraLite, 4, [[0, 0, 0, 2, 0], [0, 1, 1, 0, 0], [0, 0, 0, 0, 0]])],
    (State.reset.cfg.kernels.get p.1).div = p.2.1 ∧
      ∀ tap : Tap, tap ∈ (State.reset.cfg.kernels.get p.1).taps ↔
        0 < tap.w ∧ -2 ≤ tap.dx ∧ (p.2.2[tap.dy]?.bind fun row => row[(tap.dx + 2).toNat]?) = some tap.w
end

