-- ==== Sys2Proof/Laws/Decode.lean ====
section
/-! SUPPORT. Byte order and the decoder's shape: four bytes always decode. -/

namespace Sys2Proof

/-- The bytes of a word, put together again, are the word. -/
theorem wordOfBytes_wordBytes (w : Word) :
    wordOfBytes (w.extractLsb' 0 8) (w.extractLsb' 8 8) (w.extractLsb' 16 8) (w.extractLsb' 24 8) = w := by
  apply BitVec.eq_of_getLsbD_eq
  intro i hi
  simp only [wordOfBytes, BitVec.getLsbD_append, BitVec.getLsbD_extractLsb']
  by_cases h1 : i < 8
  · simp [h1]
  · by_cases h2 : i < 16
    · simp [h1, show i - 8 < 8 by omega, show 8 + (i - 8) = i by omega]
    · by_cases h3 : i < 24
      · simp [h1, show ¬ i - 8 < 8 by omega, show i - 8 - 8 < 8 by omega, show 16 + (i - 8 - 8) = i by omega]
      · simp [h1, show ¬ i - 8 < 8 by omega, show ¬ i - 8 - 8 < 8 by omega, show i - 8 - 8 - 8 < 8 by omega,
          show 24 + (i - 8 - 8 - 8) = i by omega]

/-- A word's bytes decode to the word's command, and the bytes after them are left. -/
@[simp] theorem decode_wordBytes (w : Word) (rest : List Byte) :
    decode (wordBytes w ++ rest) = .ok (decodeWord w, rest) := by
  simp only [wordBytes, List.cons_append, List.nil_append, decode, wordOfBytes_wordBytes]

/-- The decoder refuses exactly a list too short for a command. -/
theorem decode_error_iff (bytes : List Byte) : decode bytes = .error .truncated ↔ bytes.length < 4 := by
  match bytes with
  | [] | [_] | [_, _] | [_, _, _] => simp [decode]
  | _ :: _ :: _ :: _ :: _ => simp [decode]

end Sys2Proof
end

