-- ==== Sys2Proof/Laws/Diffusion.lean ====
section
/-! SUPPORT. What a tap, a kernel and a pass can do to the working buffer, and which pixels a pass emits. -/

namespace Sys2Proof.Machine

/-! ## Clamping -/

/-- A clamped value lies between `toF 0` and `toF 255`. -/
theorem clampF_range (fmt : FFormat) (v : FVal) :
    (toF fmt 0).units ≤ (clampF fmt v).units ∧ (clampF fmt v).units ≤ (toF fmt 255).units := by
  have hle : (toF fmt 0).units ≤ (toF fmt 255).units := by
    simp only [toF]
    exact Int.mul_le_mul_of_nonneg_right (by decide) (Int.natCast_nonneg _)
  simp only [clampF, flt, fgt, decide_eq_true_eq]
  split
  · exact ⟨Int.le_refl _, hle⟩
  · split
    · exact ⟨hle, Int.le_refl _⟩
    · omega

/-! ## Taps -/

/-- Where a tap lands, if it lands: the column and row of rule R141, inside the grid. -/
theorem tapTarget_eq_some {w h j : Nat} {p : ScanPos} {t : Tap} :
    tapTarget w h p t = some j ↔
      (0 ≤ (p.x : Int) + p.dir * t.dx ∧ (p.x : Int) + p.dir * t.dx < (w : Int) ∧ p.y + t.dy < h) ∧
        j = (p.y + t.dy) * w + ((p.x : Int) + p.dir * t.dx).toNat := by
  simp only [tapTarget]
  split <;> simp_all [eq_comm]

@[simp] theorem applyTap_length (fmt : FFormat) (k : Kernel) (w h : Nat) (p : ScanPos) (err : FVal)
    (wb : List FVal) (t : Tap) : (applyTap fmt k w h p err wb t).length = wb.length := by
  simp only [applyTap]; split <;> simp

/-- One tap changes the element it lands on alone. -/
theorem applyTap_getElem? (fmt : FFormat) (k : Kernel) (w h : Nat) (p : ScanPos) (err : FVal)
    (wb : List FVal) (t : Tap) (j : Nat) :
    (applyTap fmt k w h p err wb t)[j]? =
      if tapTarget w h p t = some j then wb[j]?.map (receive fmt k err t) else wb[j]? := by
  simp only [applyTap]
  split
  · rename_i j' hj'
    rw [List.getElem?_modify, hj']
    by_cases hj : j' = j <;> simp [hj]
  · rename_i hn
    simp [hn]

@[simp] theorem diffuse_length (fmt : FFormat) (k : Kernel) (w h : Nat) (p : ScanPos) (err : FVal)
    (wb : List FVal) : (diffuse fmt k w h p err wb).length = wb.length := by
  simp only [diffuse]
  generalize k.taps = taps
  induction taps generalizing wb with
  | nil => rfl
  | cons t taps ih => simp [ih]

/-! ## Passes -/

/-- A gray diffusion pass emits one pixel for each scan position, in scan order. -/
theorem grayPass_indices (fmt : FFormat) (k : Kernel) (w h : Nat) (quant : FVal → PixelOut × FVal)
    (scan : List ScanPos) (wb : List FVal) :
    (grayPass fmt k w h quant scan wb).map Prod.fst = scan.map (ScanPos.index w) := by
  induction scan generalizing wb with
  | nil => rfl
  | cons p ps ih => simp [grayPass, ih]

/-- So does a color diffusion pass. -/
theorem colorPass_indices (fmt : FFormat) (k : Kernel) (w h : Nat) (pal : List Rgb) (src : List Rgba)
    (scan : List ScanPos) (wb : Planes) :
    (colorPass fmt k w h pal src scan wb).map Prod.fst = scan.map (ScanPos.index w) := by
  induction scan generalizing wb with
  | nil => rfl
  | cons p ps ih => simp [colorPass, ih]

/-- A pixelwise quantizer emits its pixels in index order. -/
theorem pixelwise_indices (light : Nat → Byte → Bool) (gray : List Byte) :
    (pixelwise light gray).map Prod.fst = List.range gray.length := by
  simp only [pixelwise]
  refine List.ext_getElem (by simp) fun k h1 h2 => ?_
  simp

/-- So does the plain palette matcher. -/
theorem plainMatch_indices (preinv : Bool) (src : List Rgba) (pal : List Rgb) :
    (plainMatch preinv src pal).map Prod.fst = List.range src.length := by
  simp only [plainMatch]
  refine List.ext_getElem (by simp) fun k h1 h2 => ?_
  simp

end Sys2Proof.Machine
end

