-- ==== Sys2Proof/Laws/Memory.lean ====
section
/-! SUPPORT. What the memory operations do: reads after writes, bytes left alone, and the canonical form. -/

namespace Sys2Proof.Machine

/-! ## One byte -/

@[simp] theorem Memory.read_nil (a : Nat) : Memory.read [] a = none := rfl

/-- A read after a write: the byte written at its address, every other address as before. -/
theorem Memory.read_write (m : Memory) (a : Nat) (b : Byte) (x : Nat) :
    (m.write a b).read x = if x = a then some b else m.read x := by
  induction m with
  | nil => simp [Memory.write, Memory.read, Memory.unlisted]
  | cons p m ih =>
    obtain ⟨a', b'⟩ := p
    by_cases h1 : a < a'
    · simp [Memory.write, Memory.read, h1]
    · by_cases h2 : a = a'
      · subst h2
        by_cases h3 : x = a <;> simp [Memory.write, Memory.read, h3]
      · simp only [Memory.write, h1, h2, if_false, Memory.read, ih]
        by_cases h3 : x = a'
        · subst h3
          simp [Ne.symm h2]
        · simp [h3]

@[simp] theorem Memory.read_write_same (m : Memory) (a : Nat) (b : Byte) : (m.write a b).read a = some b := by
  simp [Memory.read_write]

theorem Memory.read_write_other (m : Memory) {a x : Nat} (b : Byte) (h : x ≠ a) :
    (m.write a b).read x = m.read x := by
  simp [Memory.read_write, h]

/-- Every entry of a written memory is the new one or an old one. -/
theorem Memory.mem_write {m : Memory} {a : Nat} {b : Byte} {p : Host.Cell} (h : p ∈ m.write a b) :
    p = (a, b) ∨ p ∈ m := by
  induction m with
  | nil => simpa [Memory.write] using h
  | cons q m ih =>
    obtain ⟨a', b'⟩ := q
    simp only [Memory.write] at h
    split at h
    · simpa using h
    · split at h
      · rcases List.mem_cons.1 h with h | h
        · exact .inl h
        · exact .inr (List.mem_cons_of_mem _ h)
      · rcases List.mem_cons.1 h with h | h
        · exact .inr (h ▸ List.mem_cons_self)
        · exact (ih h).imp id (List.mem_cons_of_mem _)

/-- Writing a byte keeps the canonical form. -/
theorem Memory.wf_write {m : Memory} (h : m.wf) (a : Nat) (b : Byte) : (m.write a b).wf := by
  induction m with
  | nil => simp [Memory.write, Memory.wf]
  | cons p m ih =>
    obtain ⟨a', b'⟩ := p
    obtain ⟨hp, hm⟩ := List.pairwise_cons.1 h
    simp only [Memory.write]
    split
    · rename_i h1
      refine List.pairwise_cons.2 ⟨fun q hq => ?_, h⟩
      rcases List.mem_cons.1 hq with rfl | hq
      · exact h1
      · exact Nat.lt_trans h1 (hp q hq)
    · split
      · rename_i h1 h2
        subst h2
        exact List.pairwise_cons.2 ⟨fun q hq => hp q hq, hm⟩
      · rename_i h1 h2
        refine List.pairwise_cons.2 ⟨fun q hq => ?_, ih hm⟩
        rcases Memory.mem_write hq with rfl | hq
        · simp; omega
        · exact hp q hq

/-- In a canonical memory an entry is what its address reads as. -/
theorem Memory.read_of_mem {m : Memory} (h : m.wf) {p : Host.Cell} (hp : p ∈ m) : m.read p.1 = some p.2 := by
  induction m with
  | nil => cases hp
  | cons q m ih =>
    obtain ⟨hq, hm⟩ := List.pairwise_cons.1 h
    rcases List.mem_cons.1 hp with rfl | hp
    · simp [Memory.read]
    · have := hq p hp
      simp only [Memory.read]
      rw [if_neg (by omega)]
      exact ih hm hp

/-- What an address reads as is an entry. -/
theorem Memory.mem_of_read {m : Memory} {a : Nat} {b : Byte} (h : m.read a = some b) : (a, b) ∈ m := by
  induction m with
  | nil => simp at h
  | cons q m ih =>
    obtain ⟨a', b'⟩ := q
    simp only [Memory.read] at h
    split at h
    · rename_i h1
      cases h
      exact h1 ▸ List.mem_cons_self
    · exact List.mem_cons_of_mem _ (ih h)

/-- Writing the byte an address already reads as leaves a canonical memory as it is. -/
theorem Memory.write_read_self {m : Memory} (h : m.wf) {a : Nat} {b : Byte} (hr : m.read a = some b) :
    m.write a b = m := by
  induction m with
  | nil => simp at hr
  | cons q m ih =>
    obtain ⟨a', b'⟩ := q
    obtain ⟨hq, hm⟩ := List.pairwise_cons.1 h
    simp only [Memory.read] at hr
    simp only [Memory.write]
    split at hr
    · rename_i h1
      cases hr
      simp [h1]
    · rename_i h1
      have hlt := hq _ (Memory.mem_of_read hr)
      simp only at hlt
      rw [if_neg (by omega), if_neg h1, ih hm hr]

/-- Two canonical memories that read alike everywhere are equal. -/
theorem Memory.ext_read {m m' : Memory} (h : m.wf) (h' : m'.wf) (hr : ∀ a, m.read a = m'.read a) : m = m' := by
  induction m generalizing m' with
  | nil =>
    cases m' with
    | nil => rfl
    | cons q m' => simpa [Memory.read, Memory.unlisted] using hr q.1
  | cons p m ih =>
    cases m' with
    | nil => simpa [Memory.read, Memory.unlisted] using hr p.1
    | cons q m' =>
      obtain ⟨hp, hm⟩ := List.pairwise_cons.1 h
      obtain ⟨hq, hm'⟩ := List.pairwise_cons.1 h'
      have hpq : p.1 = q.1 := by
        have e1 : (p.1, p.2) ∈ q :: m' := Memory.mem_of_read (by rw [← hr]; simp [Memory.read])
        have e2 : (q.1, q.2) ∈ p :: m := Memory.mem_of_read (by rw [hr]; simp [Memory.read])
        rcases List.mem_cons.1 e1 with e1 | e1
        · exact congrArg Prod.fst e1
        · rcases List.mem_cons.1 e2 with e2 | e2
          · exact (congrArg Prod.fst e2).symm
          · have := hq _ e1
            have := hp _ e2
            simp only at *
            omega
      have hb : p.2 = q.2 := by
        have := hr p.1
        rw [hpq] at this
        simpa [Memory.read, hpq] using this
      have hpe : p = q := Prod.ext hpq hb
      subst hpe
      congr 1
      refine ih hm hm' fun a => ?_
      by_cases ha : a = p.1
      · have hn : ∀ {l : Memory}, (∀ r ∈ l, p.1 < r.1) → l.read p.1 = none := by
          intro l hl
          cases hl' : Memory.read l p.1 with
          | none => rfl
          | some b => exact absurd (hl _ (Memory.mem_of_read hl')) (Nat.lt_irrefl _)
        rw [ha, hn hp, hn hq]
      · simpa [Memory.read, ha] using hr a

/-! ## Several bytes -/

@[simp] theorem Memory.writeBytes_nil (m : Memory) (a : Nat) : m.writeBytes a [] = m := rfl

/-- A read after a run of bytes is written: the run's own byte inside it, as before outside it. -/
theorem Memory.read_writeBytes (m : Memory) (a : Nat) (bs : List Byte) (x : Nat) :
    (m.writeBytes a bs).read x = if a ≤ x ∧ x < a + bs.length then bs[x - a]? else m.read x := by
  induction bs generalizing m a with
  | nil =>
    rw [Memory.writeBytes_nil, if_neg]
    simp only [List.length_nil]
    omega
  | cons b bs ih =>
    simp only [Memory.writeBytes, ih, Memory.read_write, List.length_cons]
    by_cases h1 : x = a
    · subst h1
      rw [if_neg (by omega), if_pos rfl, if_pos (by omega)]
      simp
    · by_cases h2 : a + 1 ≤ x ∧ x < a + 1 + bs.length
      · rw [if_pos h2, if_pos (by omega), show x - a = (x - (a + 1)) + 1 by omega, List.getElem?_cons_succ]
      · rw [if_neg h2, if_neg h1, if_neg (by omega)]

theorem Memory.read_writeBytes_outside (m : Memory) {a x : Nat} {bs : List Byte}
    (h : x < a ∨ a + bs.length ≤ x) : (m.writeBytes a bs).read x = m.read x := by
  rw [Memory.read_writeBytes, if_neg (by omega)]

theorem Memory.read_writeBytes_inside (m : Memory) (a : Nat) {bs : List Byte} {k : Nat} (h : k < bs.length) :
    (m.writeBytes a bs).read (a + k) = some bs[k] := by
  rw [Memory.read_writeBytes, if_pos (by omega)]
  simp [h]

theorem Memory.wf_writeBytes {m : Memory} (h : m.wf) (a : Nat) (bs : List Byte) : (m.writeBytes a bs).wf := by
  induction bs generalizing m a with
  | nil => exact h
  | cons b bs ih => exact ih (Memory.wf_write h a b) (a + 1)

/-- Every entry of a memory after a run of bytes is an old one or lies in the run. -/
theorem Memory.mem_writeBytes {m : Memory} {a : Nat} {bs : List Byte} {p : Host.Cell}
    (h : p ∈ m.writeBytes a bs) : (a ≤ p.1 ∧ p.1 < a + bs.length) ∨ p ∈ m := by
  induction bs generalizing m a with
  | nil => exact .inr h
  | cons b bs ih =>
    rcases ih h with h | h
    · left
      simp only [List.length_cons]
      omega
    · rcases Memory.mem_write h with rfl | h
      · left
        simp
      · exact .inr h

/-- A run of bytes that is read is there byte by byte, and the other way round. -/
theorem Memory.readBytes_eq_some {m : Memory} {a n : Nat} {bs : List Byte} :
    m.readBytes a n = some bs ↔ bs.length = n ∧ ∀ k (h : k < bs.length), m.read (a + k) = some bs[k] := by
  induction n generalizing a bs with
  | zero =>
    constructor
    · rintro h
      cases h
      simp
    · rintro ⟨h, -⟩
      rw [List.length_eq_zero_iff] at h
      simp [Memory.readBytes, h]
  | succ n ih =>
    constructor
    · intro h
      simp only [Memory.readBytes] at h
      split at h
      · rename_i b bs' hb hbs
        cases h
        obtain ⟨hl, hk⟩ := ih.1 hbs
        refine ⟨by simp [hl], fun k hk' => ?_⟩
        cases k with
        | zero => simpa using hb
        | succ k =>
          have := hk k (by simpa using hk')
          rw [show a + (k + 1) = a + 1 + k by omega, this]
          simp
      · cases h
    · rintro ⟨hl, hk⟩
      cases bs with
      | nil => simp at hl
      | cons b bs =>
        have h0 := hk 0 (by simp)
        have hr : m.readBytes (a + 1) n = some bs := by
          refine ih.2 ⟨by simpa using hl, fun k hk' => ?_⟩
          have := hk (k + 1) (by simpa using hk')
          rw [show a + 1 + k = a + (k + 1) by omega, this]
          simp
        simp only [Nat.add_zero, List.getElem_cons_zero] at h0
        simp [Memory.readBytes, h0, hr]

/-! ## The pixels of a pass -/

/-- A read after one pixel is emitted: its `IDX` byte, its four `PREV` bytes, every other address as before. -/
theorem Memory.read_emit (m : Memory) (i : Nat) (o : PixelOut) (x : Nat) :
    (m.emit i o).read x =
      if x = chanAddr .prev i 0 then some o.preview.rgb.r
      else if x = chanAddr .prev i 1 then some o.preview.rgb.g
      else if x = chanAddr .prev i 2 then some o.preview.rgb.b
      else if x = chanAddr .prev i 3 then some o.preview.a
      else if x = elemAddr .idx i then some o.index
      else m.read x := by
  simp only [Memory.emit, Memory.writeBytes, Memory.read_write, chanAddr, Nat.add_zero, Nat.add_assoc, Nat.reduceAdd]
  repeat' split
  all_goals first | rfl | omega

theorem Memory.wf_emit {m : Memory} (h : m.wf) (i : Nat) (o : PixelOut) : (m.emit i o).wf :=
  Memory.wf_writeBytes (Memory.wf_write h _ _) _ _

theorem Memory.mem_emit {m : Memory} {i : Nat} {o : PixelOut} {p : Host.Cell} (h : p ∈ m.emit i o) :
    p.1 = elemAddr .idx i ∨ (chanAddr .prev i 0 ≤ p.1 ∧ p.1 < chanAddr .prev i 0 + 4) ∨ p ∈ m := by
  rcases Memory.mem_writeBytes h with h | h
  · exact .inr (.inl (by simpa using h))
  · rcases Memory.mem_write h with rfl | h
    · exact .inl rfl
    · exact .inr (.inr h)

@[simp] theorem Memory.emitAll_nil (m : Memory) : m.emitAll [] = m := rfl

@[simp] theorem Memory.emitAll_cons (m : Memory) (p : Nat × PixelOut) (outs : List (Nat × PixelOut)) :
    m.emitAll (p :: outs) = (m.emit p.1 p.2).emitAll outs := rfl

theorem Memory.wf_emitAll {m : Memory} (h : m.wf) (outs : List (Nat × PixelOut)) : (m.emitAll outs).wf := by
  induction outs generalizing m with
  | nil => exact h
  | cons p outs ih => exact ih (Memory.wf_emit h p.1 p.2)

/-- An address no emitted pixel has reads as before. -/
theorem Memory.read_emitAll_outside (m : Memory) {outs : List (Nat × PixelOut)} {x : Nat}
    (h : ∀ p ∈ outs, x ≠ elemAddr .idx p.1 ∧ ∀ c < 4, x ≠ chanAddr .prev p.1 c) :
    (m.emitAll outs).read x = m.read x := by
  induction outs generalizing m with
  | nil => rfl
  | cons p outs ih =>
    obtain ⟨hi, hc⟩ := h p List.mem_cons_self
    rw [Memory.emitAll_cons, ih _ fun q hq => h q (List.mem_cons_of_mem _ hq), Memory.read_emit,
      if_neg (hc 0 (by omega)), if_neg (hc 1 (by omega)), if_neg (hc 2 (by omega)), if_neg (hc 3 (by omega)),
      if_neg hi]

/-- An entry after a pass is an old one or lies in an emitted pixel. -/
theorem Memory.mem_emitAll {m : Memory} {outs : List (Nat × PixelOut)} {q : Host.Cell} (h : q ∈ m.emitAll outs) :
    q ∈ m ∨ ∃ p ∈ outs, q.1 = elemAddr .idx p.1 ∨ (chanAddr .prev p.1 0 ≤ q.1 ∧ q.1 < chanAddr .prev p.1 0 + 4) := by
  induction outs generalizing m with
  | nil => exact .inl h
  | cons p outs ih =>
    rcases ih h with h | ⟨p', hp', h⟩
    · rcases Memory.mem_emit h with h | h | h
      · exact .inr ⟨p, List.mem_cons_self, .inl h⟩
      · exact .inr ⟨p, List.mem_cons_self, .inr h⟩
      · exact .inl h
    · exact .inr ⟨p', List.mem_cons_of_mem _ hp', h⟩

/-- A pixel emitted once by a pass is what its own addresses read as afterwards, on a grid small enough that `IDX` and
`PREV` do not meet. -/
theorem Memory.read_emitAll_pixel (m : Memory) {outs : List (Nat × PixelOut)} {i : Nat} {o : PixelOut}
    (hmem : (i, o) ∈ outs) (hone : (outs.map Prod.fst).Nodup)
    (hsmall : ∀ p ∈ outs, p.1 < 0x01000000) :
    (m.emitAll outs).read (elemAddr .idx i) = some o.index ∧
      (m.emitAll outs).read (chanAddr .prev i 0) = some o.preview.rgb.r ∧
      (m.emitAll outs).read (chanAddr .prev i 1) = some o.preview.rgb.g ∧
      (m.emitAll outs).read (chanAddr .prev i 2) = some o.preview.rgb.b ∧
      (m.emitAll outs).read (chanAddr .prev i 3) = some o.preview.a := by
  induction outs generalizing m with
  | nil => cases hmem
  | cons p outs ih =>
    rw [List.map_cons, List.nodup_cons] at hone
    obtain ⟨hnot, hone⟩ := hone
    have hrest : ∀ p ∈ outs, p.1 < 0x01000000 := fun q hq => hsmall q (List.mem_cons_of_mem _ hq)
    rcases List.mem_cons.1 hmem with hp | hmem
    · subst hp
      have hi : i < 0x01000000 := hsmall (i, o) List.mem_cons_self
      have hne : ∀ q ∈ outs, q.1 ≠ i := fun q hq hqi => hnot (List.mem_map.2 ⟨q, hq, hqi⟩)
      have hout : ∀ x, (x = elemAddr .idx i ∨ ∃ c, c < 4 ∧ x = chanAddr .prev i c) →
          ((m.emit i o).emitAll outs).read x = (m.emit i o).read x := by
        intro x hx
        refine Memory.read_emitAll_outside _ fun q hq => ?_
        have := hne q hq
        have := hrest q hq
        rcases hx with rfl | ⟨c, hc, rfl⟩ <;>
          refine ⟨?_, fun c' hc' => ?_⟩ <;> simp only [elemAddr, chanAddr, Window.base] <;> omega
      rw [Memory.emitAll_cons, hout _ (.inl rfl), hout _ (.inr ⟨0, by omega, rfl⟩), hout _ (.inr ⟨1, by omega, rfl⟩),
        hout _ (.inr ⟨2, by omega, rfl⟩), hout _ (.inr ⟨3, by omega, rfl⟩)]
      have hpos : i < 0x01000000 := hi
      refine ⟨?_, ?_, ?_, ?_, ?_⟩ <;> rw [Memory.read_emit] <;> simp only [elemAddr, chanAddr, Window.base] <;>
        split_ifs <;> first | rfl | omega
    · exact ih _ hmem hone hrest

end Sys2Proof.Machine
end

