-- ==== Sys2Proof/Laws/State.lean ====
section
/-! SUPPORT. One lemma per field per named update of State: what the update makes of the field. -/

namespace Sys2Proof.Machine

/-! ## setIllop -/

@[simp] theorem State.setIllop_cfg (s : State) : (s.setIllop).cfg = s.cfg := rfl
@[simp] theorem State.setIllop_width (s : State) : (s.setIllop).width = s.width := rfl
@[simp] theorem State.setIllop_height (s : State) : (s.setIllop).height = s.height := rfl
@[simp] theorem State.setIllop_modeId (s : State) : (s.setIllop).modeId = s.modeId := rfl
@[simp] theorem State.setIllop_status (s : State) : (s.setIllop).status = { s.status with illop := true } := rfl
@[simp] theorem State.setIllop_faultCmd (s : State) : (s.setIllop).faultCmd = s.faultCmd := rfl
@[simp] theorem State.setIllop_resWidth (s : State) : (s.setIllop).resWidth = s.resWidth := rfl
@[simp] theorem State.setIllop_resHeight (s : State) : (s.setIllop).resHeight = s.resHeight := rfl
@[simp] theorem State.setIllop_resBpp (s : State) : (s.setIllop).resBpp = s.resBpp := rfl
@[simp] theorem State.setIllop_resModeId (s : State) : (s.setIllop).resModeId = s.resModeId := rfl
@[simp] theorem State.setIllop_resLen (s : State) : (s.setIllop).resLen = s.resLen := rfl
@[simp] theorem State.setIllop_mem (s : State) : (s.setIllop).mem = s.mem := rfl
@[simp] theorem State.setIllop_pending (s : State) : (s.setIllop).pending = s.pending := rfl
@[simp] theorem State.setIllop_busData (s : State) : (s.setIllop).busData = s.busData := rfl
@[simp] theorem State.setIllop_response (s : State) : (s.setIllop).response = s.response := rfl

/-! ## raiseFault -/

@[simp] theorem State.raiseFault_cfg (s : State) (c : FaultCause) : (s.raiseFault c).cfg = s.cfg := rfl
@[simp] theorem State.raiseFault_width (s : State) (c : FaultCause) : (s.raiseFault c).width = s.width := rfl
@[simp] theorem State.raiseFault_height (s : State) (c : FaultCause) : (s.raiseFault c).height = s.height := rfl
@[simp] theorem State.raiseFault_modeId (s : State) (c : FaultCause) : (s.raiseFault c).modeId = s.modeId := rfl
@[simp] theorem State.raiseFault_status (s : State) (c : FaultCause) : (s.raiseFault c).status = { s.status with fault := true, cause := c.code } := rfl
@[simp] theorem State.raiseFault_faultCmd (s : State) (c : FaultCause) : (s.raiseFault c).faultCmd = s.busData := rfl
@[simp] theorem State.raiseFault_resWidth (s : State) (c : FaultCause) : (s.raiseFault c).resWidth = s.resWidth := rfl
@[simp] theorem State.raiseFault_resHeight (s : State) (c : FaultCause) : (s.raiseFault c).resHeight = s.resHeight := rfl
@[simp] theorem State.raiseFault_resBpp (s : State) (c : FaultCause) : (s.raiseFault c).resBpp = s.resBpp := rfl
@[simp] theorem State.raiseFault_resModeId (s : State) (c : FaultCause) : (s.raiseFault c).resModeId = s.resModeId := rfl
@[simp] theorem State.raiseFault_resLen (s : State) (c : FaultCause) : (s.raiseFault c).resLen = s.resLen := rfl
@[simp] theorem State.raiseFault_mem (s : State) (c : FaultCause) : (s.raiseFault c).mem = s.mem := rfl
@[simp] theorem State.raiseFault_pending (s : State) (c : FaultCause) : (s.raiseFault c).pending = s.pending := rfl
@[simp] theorem State.raiseFault_busData (s : State) (c : FaultCause) : (s.raiseFault c).busData = s.busData := rfl
@[simp] theorem State.raiseFault_response (s : State) (c : FaultCause) : (s.raiseFault c).response = s.response := rfl

/-! ## afterReset -/

@[simp] theorem State.afterReset_cfg (s : State) : (s.afterReset).cfg = s.cfg := rfl
@[simp] theorem State.afterReset_width (s : State) : (s.afterReset).width = 0 := rfl
@[simp] theorem State.afterReset_height (s : State) : (s.afterReset).height = 0 := rfl
@[simp] theorem State.afterReset_modeId (s : State) : (s.afterReset).modeId = 0 := rfl
@[simp] theorem State.afterReset_status (s : State) : (s.afterReset).status = { fault := false, illop := false, cause := 0 } := rfl
@[simp] theorem State.afterReset_faultCmd (s : State) : (s.afterReset).faultCmd = 0 := rfl
@[simp] theorem State.afterReset_resWidth (s : State) : (s.afterReset).resWidth = 0 := rfl
@[simp] theorem State.afterReset_resHeight (s : State) : (s.afterReset).resHeight = 0 := rfl
@[simp] theorem State.afterReset_resBpp (s : State) : (s.afterReset).resBpp = 0 := rfl
@[simp] theorem State.afterReset_resModeId (s : State) : (s.afterReset).resModeId = 0 := rfl
@[simp] theorem State.afterReset_resLen (s : State) : (s.afterReset).resLen = 0 := rfl
@[simp] theorem State.afterReset_mem (s : State) : (s.afterReset).mem = s.mem := rfl
@[simp] theorem State.afterReset_pending (s : State) : (s.afterReset).pending = s.pending := rfl
@[simp] theorem State.afterReset_busData (s : State) : (s.afterReset).busData = 0 := rfl
@[simp] theorem State.afterReset_response (s : State) : (s.afterReset).response = .none := rfl

/-! ## respond -/

@[simp] theorem State.respond_cfg (s : State) (r : Response) : (s.respond r).cfg = s.cfg := rfl
@[simp] theorem State.respond_width (s : State) (r : Response) : (s.respond r).width = s.width := rfl
@[simp] theorem State.respond_height (s : State) (r : Response) : (s.respond r).height = s.height := rfl
@[simp] theorem State.respond_modeId (s : State) (r : Response) : (s.respond r).modeId = s.modeId := rfl
@[simp] theorem State.respond_status (s : State) (r : Response) : (s.respond r).status = s.status := rfl
@[simp] theorem State.respond_faultCmd (s : State) (r : Response) : (s.respond r).faultCmd = s.faultCmd := rfl
@[simp] theorem State.respond_resWidth (s : State) (r : Response) : (s.respond r).resWidth = s.resWidth := rfl
@[simp] theorem State.respond_resHeight (s : State) (r : Response) : (s.respond r).resHeight = s.resHeight := rfl
@[simp] theorem State.respond_resBpp (s : State) (r : Response) : (s.respond r).resBpp = s.resBpp := rfl
@[simp] theorem State.respond_resModeId (s : State) (r : Response) : (s.respond r).resModeId = s.resModeId := rfl
@[simp] theorem State.respond_resLen (s : State) (r : Response) : (s.respond r).resLen = s.resLen := rfl
@[simp] theorem State.respond_mem (s : State) (r : Response) : (s.respond r).mem = s.mem := rfl
@[simp] theorem State.respond_pending (s : State) (r : Response) : (s.respond r).pending = s.pending := rfl
@[simp] theorem State.respond_busData (s : State) (r : Response) : (s.respond r).busData = s.busData := rfl
@[simp] theorem State.respond_response (s : State) (r : Response) : (s.respond r).response = r := rfl

/-! ## beginCommand -/

@[simp] theorem State.beginCommand_cfg (s : State) (c : Word) : (s.beginCommand c).cfg = s.cfg := rfl
@[simp] theorem State.beginCommand_width (s : State) (c : Word) : (s.beginCommand c).width = s.width := rfl
@[simp] theorem State.beginCommand_height (s : State) (c : Word) : (s.beginCommand c).height = s.height := rfl
@[simp] theorem State.beginCommand_modeId (s : State) (c : Word) : (s.beginCommand c).modeId = s.modeId := rfl
@[simp] theorem State.beginCommand_status (s : State) (c : Word) : (s.beginCommand c).status = s.status := rfl
@[simp] theorem State.beginCommand_faultCmd (s : State) (c : Word) : (s.beginCommand c).faultCmd = s.faultCmd := rfl
@[simp] theorem State.beginCommand_resWidth (s : State) (c : Word) : (s.beginCommand c).resWidth = s.resWidth := rfl
@[simp] theorem State.beginCommand_resHeight (s : State) (c : Word) : (s.beginCommand c).resHeight = s.resHeight := rfl
@[simp] theorem State.beginCommand_resBpp (s : State) (c : Word) : (s.beginCommand c).resBpp = s.resBpp := rfl
@[simp] theorem State.beginCommand_resModeId (s : State) (c : Word) : (s.beginCommand c).resModeId = s.resModeId := rfl
@[simp] theorem State.beginCommand_resLen (s : State) (c : Word) : (s.beginCommand c).resLen = s.resLen := rfl
@[simp] theorem State.beginCommand_mem (s : State) (c : Word) : (s.beginCommand c).mem = s.mem := rfl
@[simp] theorem State.beginCommand_pending (s : State) (c : Word) : (s.beginCommand c).pending = s.pending := rfl
@[simp] theorem State.beginCommand_busData (s : State) (c : Word) : (s.beginCommand c).busData = c := rfl
@[simp] theorem State.beginCommand_response (s : State) (c : Word) : (s.beginCommand c).response = s.response := rfl

/-! ## endCommand -/

@[simp] theorem State.endCommand_cfg (s : State) : (s.endCommand).cfg = s.cfg := rfl
@[simp] theorem State.endCommand_width (s : State) : (s.endCommand).width = s.width := rfl
@[simp] theorem State.endCommand_height (s : State) : (s.endCommand).height = s.height := rfl
@[simp] theorem State.endCommand_modeId (s : State) : (s.endCommand).modeId = s.modeId := rfl
@[simp] theorem State.endCommand_status (s : State) : (s.endCommand).status = s.status := rfl
@[simp] theorem State.endCommand_faultCmd (s : State) : (s.endCommand).faultCmd = s.faultCmd := rfl
@[simp] theorem State.endCommand_resWidth (s : State) : (s.endCommand).resWidth = s.resWidth := rfl
@[simp] theorem State.endCommand_resHeight (s : State) : (s.endCommand).resHeight = s.resHeight := rfl
@[simp] theorem State.endCommand_resBpp (s : State) : (s.endCommand).resBpp = s.resBpp := rfl
@[simp] theorem State.endCommand_resModeId (s : State) : (s.endCommand).resModeId = s.resModeId := rfl
@[simp] theorem State.endCommand_resLen (s : State) : (s.endCommand).resLen = s.resLen := rfl
@[simp] theorem State.endCommand_mem (s : State) : (s.endCommand).mem = s.mem := rfl
@[simp] theorem State.endCommand_pending (s : State) : (s.endCommand).pending = s.pending := rfl
@[simp] theorem State.endCommand_busData (s : State) : (s.endCommand).busData = 0 := rfl
@[simp] theorem State.endCommand_response (s : State) : (s.endCommand).response = .writeDone := rfl

/-! ## pushCommand -/

@[simp] theorem State.pushCommand_cfg (s : State) (c : Word) : (s.pushCommand c).cfg = s.cfg := rfl
@[simp] theorem State.pushCommand_width (s : State) (c : Word) : (s.pushCommand c).width = s.width := rfl
@[simp] theorem State.pushCommand_height (s : State) (c : Word) : (s.pushCommand c).height = s.height := rfl
@[simp] theorem State.pushCommand_modeId (s : State) (c : Word) : (s.pushCommand c).modeId = s.modeId := rfl
@[simp] theorem State.pushCommand_status (s : State) (c : Word) : (s.pushCommand c).status = s.status := rfl
@[simp] theorem State.pushCommand_faultCmd (s : State) (c : Word) : (s.pushCommand c).faultCmd = s.faultCmd := rfl
@[simp] theorem State.pushCommand_resWidth (s : State) (c : Word) : (s.pushCommand c).resWidth = s.resWidth := rfl
@[simp] theorem State.pushCommand_resHeight (s : State) (c : Word) : (s.pushCommand c).resHeight = s.resHeight := rfl
@[simp] theorem State.pushCommand_resBpp (s : State) (c : Word) : (s.pushCommand c).resBpp = s.resBpp := rfl
@[simp] theorem State.pushCommand_resModeId (s : State) (c : Word) : (s.pushCommand c).resModeId = s.resModeId := rfl
@[simp] theorem State.pushCommand_resLen (s : State) (c : Word) : (s.pushCommand c).resLen = s.resLen := rfl
@[simp] theorem State.pushCommand_mem (s : State) (c : Word) : (s.pushCommand c).mem = s.mem := rfl
@[simp] theorem State.pushCommand_pending (s : State) (c : Word) : (s.pushCommand c).pending = .write cmdOffset .word c :: s.pending := rfl
@[simp] theorem State.pushCommand_busData (s : State) (c : Word) : (s.pushCommand c).busData = s.busData := rfl
@[simp] theorem State.pushCommand_response (s : State) (c : Word) : (s.pushCommand c).response = s.response := rfl

/-! ## storePacked -/

@[simp] theorem State.storePacked_cfg (s : State) (n : BitVec 3) (bpr : Nat) (buf : List Byte) : (s.storePacked n bpr buf).cfg = s.cfg := rfl
@[simp] theorem State.storePacked_width (s : State) (n : BitVec 3) (bpr : Nat) (buf : List Byte) : (s.storePacked n bpr buf).width = s.width := rfl
@[simp] theorem State.storePacked_height (s : State) (n : BitVec 3) (bpr : Nat) (buf : List Byte) : (s.storePacked n bpr buf).height = s.height := rfl
@[simp] theorem State.storePacked_modeId (s : State) (n : BitVec 3) (bpr : Nat) (buf : List Byte) : (s.storePacked n bpr buf).modeId = s.modeId := rfl
@[simp] theorem State.storePacked_status (s : State) (n : BitVec 3) (bpr : Nat) (buf : List Byte) : (s.storePacked n bpr buf).status = s.status := rfl
@[simp] theorem State.storePacked_faultCmd (s : State) (n : BitVec 3) (bpr : Nat) (buf : List Byte) : (s.storePacked n bpr buf).faultCmd = s.faultCmd := rfl
@[simp] theorem State.storePacked_resWidth (s : State) (n : BitVec 3) (bpr : Nat) (buf : List Byte) : (s.storePacked n bpr buf).resWidth = s.width := rfl
@[simp] theorem State.storePacked_resHeight (s : State) (n : BitVec 3) (bpr : Nat) (buf : List Byte) : (s.storePacked n bpr buf).resHeight = s.height := rfl
@[simp] theorem State.storePacked_resBpp (s : State) (n : BitVec 3) (bpr : Nat) (buf : List Byte) : (s.storePacked n bpr buf).resBpp = n := rfl
@[simp] theorem State.storePacked_resModeId (s : State) (n : BitVec 3) (bpr : Nat) (buf : List Byte) : (s.storePacked n bpr buf).resModeId = s.modeId := rfl
@[simp] theorem State.storePacked_resLen (s : State) (n : BitVec 3) (bpr : Nat) (buf : List Byte) : (s.storePacked n bpr buf).resLen = BitVec.ofNat 32 (bpr * s.gridH) := rfl
@[simp] theorem State.storePacked_mem (s : State) (n : BitVec 3) (bpr : Nat) (buf : List Byte) : (s.storePacked n bpr buf).mem = s.mem.writeBytes (elemAddr .pbuf 0) buf := rfl
@[simp] theorem State.storePacked_pending (s : State) (n : BitVec 3) (bpr : Nat) (buf : List Byte) : (s.storePacked n bpr buf).pending = s.pending := rfl
@[simp] theorem State.storePacked_busData (s : State) (n : BitVec 3) (bpr : Nat) (buf : List Byte) : (s.storePacked n bpr buf).busData = s.busData := rfl
@[simp] theorem State.storePacked_response (s : State) (n : BitVec 3) (bpr : Nat) (buf : List Byte) : (s.storePacked n bpr buf).response = s.response := rfl

/-! ## Grid shape under updates -/

@[simp] theorem State.gridW_withMem (s : State) (m : Memory) : ({ s with mem := m } : State).gridW = s.gridW := rfl
@[simp] theorem State.gridH_withMem (s : State) (m : Memory) : ({ s with mem := m } : State).gridH = s.gridH := rfl
@[simp] theorem State.pixels_withMem (s : State) (m : Memory) : ({ s with mem := m } : State).pixels = s.pixels := rfl
@[simp] theorem State.gridFits_withMem (s : State) (m : Memory) : ({ s with mem := m } : State).gridFits = s.gridFits := rfl
@[simp] theorem State.gridW_beginCommand (s : State) (c : Word) : (s.beginCommand c).gridW = s.gridW := rfl
@[simp] theorem State.gridH_beginCommand (s : State) (c : Word) : (s.beginCommand c).gridH = s.gridH := rfl
@[simp] theorem State.pixels_beginCommand (s : State) (c : Word) : (s.beginCommand c).pixels = s.pixels := rfl
@[simp] theorem State.gridFits_beginCommand (s : State) (c : Word) : (s.beginCommand c).gridFits = s.gridFits := rfl
@[simp] theorem State.gridW_storePacked (s : State) (n : BitVec 3) (bpr : Nat) (buf : List Byte) :
    (s.storePacked n bpr buf).gridW = s.gridW := rfl
@[simp] theorem State.gridH_storePacked (s : State) (n : BitVec 3) (bpr : Nat) (buf : List Byte) :
    (s.storePacked n bpr buf).gridH = s.gridH := rfl
@[simp] theorem State.pixels_storePacked (s : State) (n : BitVec 3) (bpr : Nat) (buf : List Byte) :
    (s.storePacked n bpr buf).pixels = s.pixels := rfl

/-- The grid fits exactly when it has at most `MAXPIX` pixels. -/
theorem State.gridFits_iff (s : State) : s.gridFits = true ↔ s.pixels ≤ s.cfg.maxPix := by
  simp [State.gridFits]

end Sys2Proof.Machine
end

