-- ==== Sys2Proof/Laws/Operands.lean ====
section
/-! SUPPORT. What reading the inputs of a command and running a grid command can do. -/

namespace Sys2Proof.Machine

/-! ## Reading grids -/

/-- What `gather` answers: the elements in order, each of which was there. -/
theorem gather_eq_some {α : Type} {elem : Nat → Option α} {is : List Nat} {xs : List α} :
    gather elem is = some xs ↔ is.map elem = xs.map some := by
  induction is generalizing xs with
  | nil => cases xs <;> simp [gather]
  | cons i is ih =>
    cases xs with
    | nil => simp only [gather]; split <;> simp
    | cons x xs =>
      simp only [gather, List.map_cons, List.cons.injEq, ← ih]
      cases elem i <;> cases gather elem is <;> simp

/-- `gather` over the indices `0 .. n-1`. -/
theorem gather_range {α : Type} {elem : Nat → Option α} {n : Nat} {xs : List α} :
    gather elem (List.range n) = some xs ↔ xs.length = n ∧ ∀ k (h : k < xs.length), elem k = some xs[k] := by
  rw [gather_eq_some]
  constructor
  · intro h
    have hl : xs.length = n := by simpa using (congrArg List.length h).symm
    refine ⟨hl, fun k hk => ?_⟩
    have := congrArg (·[k]?) h
    simpa [hk, hl ▸ hk] using this
  · rintro ⟨hl, hk⟩
    refine List.ext_getElem (by simp [hl]) fun k h1 h2 => ?_
    simpa using hk k (by simpa using h2)

/-- `gather` answers exactly when every element is there. -/
theorem gather_isSome {α : Type} {elem : Nat → Option α} {is : List Nat} :
    (gather elem is).isSome ↔ ∀ i ∈ is, (elem i).isSome := by
  induction is with
  | nil => simp [gather]
  | cons i is ih =>
    simp only [gather, List.forall_mem_cons, ← ih]
    cases elem i <;> cases gather elem is <;> simp

theorem Memory.rgbAt_eq_some {m : Memory} {w : Window} {i : Nat} {p : Rgb} :
    m.rgbAt w i = some p ↔
      m.read (chanAddr w i 0) = some p.r ∧ m.read (chanAddr w i 1) = some p.g ∧ m.read (chanAddr w i 2) = some p.b := by
  obtain ⟨r, g, b⟩ := p
  simp only [Memory.rgbAt]
  cases m.read (chanAddr w i 0) <;> cases m.read (chanAddr w i 1) <;> cases m.read (chanAddr w i 2) <;> simp

theorem Memory.rgbaAt_eq_some {m : Memory} {w : Window} {i : Nat} {p : Rgba} :
    m.rgbaAt w i = some p ↔ m.rgbAt w i = some p.rgb ∧ m.read (chanAddr w i 3) = some p.a := by
  obtain ⟨c, a⟩ := p
  simp only [Memory.rgbaAt]
  cases m.rgbAt w i <;> cases m.read (chanAddr w i 3) <;> simp

/-! ## Grid commands -/

/-- A grid command goes on exactly when the grid fits and its inputs are there. -/
theorem State.withInput_next {α : Type} {s t : State} {input : Option α} {run : α → Result} :
    s.withInput input run = .next t ↔ s.gridFits = true ∧ ∃ x, input = some x ∧ run x = .next t := by
  simp only [State.withInput]
  cases s.gridFits <;> cases input <;> simp

/-- A grid command whose grid fits and whose inputs are there goes on with them. -/
theorem State.withInput_some {α : Type} {s : State} {x : α} {run : α → Result} (h : s.gridFits = true) :
    s.withInput (some x) run = run x := by
  simp [State.withInput, h]

/-- A gray quantizer answers a next state exactly on a grid that fits and has been written, and then it changes memory
alone, by the pixels of its pass. -/
theorem State.quantizeGray_next {s t : State} {pass : List Byte → List (Nat × PixelOut)} :
    s.quantizeGray pass = .next t ↔
      s.gridFits = true ∧ ∃ gray, s.mem.grayGrid s.pixels = some gray ∧
        t = { s with mem := s.mem.emitAll (pass gray) } := by
  simp only [State.quantizeGray, State.withInput_next, Host.Outcome.next.injEq, @eq_comm State _ t]

/-- The same for a palette quantizer. -/
theorem State.quantizePalette_next {s t : State} {npal : Nat}
    {pass : List Rgba → List Rgb → List (Nat × PixelOut)} :
    s.quantizePalette npal pass = .next t ↔
      s.gridFits = true ∧ ∃ src pal, s.mem.srcGrid s.pixels = some src ∧ s.mem.palette npal s.pixels = some pal ∧
        t = { s with mem := s.mem.emitAll (pass src pal) } := by
  simp only [State.quantizePalette, State.withInput_next, Host.Outcome.next.injEq, @eq_comm State _ t]
  constructor
  · rintro ⟨h, src, hs, -, pal, hp, rfl⟩
    exact ⟨h, src, pal, hs, hp, rfl⟩
  · rintro ⟨h, src, pal, hs, hp, rfl⟩
    exact ⟨h, src, hs, h, pal, hp, rfl⟩

end Sys2Proof.Machine
end

