-- ==== Sys2Proof/Laws/Exec.lean ====
section
/-! SUPPORT. What a command can do: one lemma that names, for each kind of command, the shared operation it is. -/

namespace Sys2Proof.Machine

/-- The shared operation behind each command, by its kind. -/
theorem exec_kind (i : Instr) (s : State) :
    match commandKind i with
    | .nop => exec i s = .next s
    | .reserved => exec i s = .next s.setIllop
    | .tone => exec i s = execTone s
    | .gray _ => (∃ thr, exec i s = execQthr thr s) ∨ (∃ thr, exec i s = execQord thr s) ∨
        ∃ kernel thr, exec i s = s.qedb kernel thr
    | .levels levels => ∃ kernel, exec i s = s.qedn kernel levels
    | .palette npal => (∃ preinv, exec i s = execQpalNone npal preinv s) ∨
        ∃ kernel preinv, exec i s = s.qpal kernel npal preinv
    | .packIndex bpp => (bpp = 1 ∧ ∃ inv, exec i s = execPack1 inv s) ∨ (bpp = 2 ∧ exec i s = execPack2 s) ∨
        (bpp = 3 ∧ exec i s = execPack3 s)
    | .packSample => ∃ inv, exec i s = execPack4 inv s := by
  cases i with
  | nop => exact rfl
  | tone => exact rfl
  | qthr thr => exact .inl ⟨thr, rfl⟩
  | qord thr => exact .inr (.inl ⟨thr, rfl⟩)
  | qedbFs thr => exact .inr (.inr ⟨.floydSteinberg, thr, rfl⟩)
  | qedbJjn thr => exact .inr (.inr ⟨.jarvis, thr, rfl⟩)
  | qedbK2 thr => exact .inr (.inr ⟨.floydSteinberg, thr, rfl⟩)
  | qedbK3 thr => exact .inr (.inr ⟨.floydSteinberg, thr, rfl⟩)
  | qedbK4 thr => exact .inr (.inr ⟨.floydSteinberg, thr, rfl⟩)
  | qedbK5 thr => exact .inr (.inr ⟨.floydSteinberg, thr, rfl⟩)
  | qedbK6 thr => exact .inr (.inr ⟨.floydSteinberg, thr, rfl⟩)
  | qedbK7 thr => exact .inr (.inr ⟨.floydSteinberg, thr, rfl⟩)
  | qedbK8 thr => exact .inr (.inr ⟨.floydSteinberg, thr, rfl⟩)
  | qedbK9 thr => exact .inr (.inr ⟨.floydSteinberg, thr, rfl⟩)
  | qedbK10 thr => exact .inr (.inr ⟨.floydSteinberg, thr, rfl⟩)
  | qedbK11 thr => exact .inr (.inr ⟨.floydSteinberg, thr, rfl⟩)
  | qedbK12 thr => exact .inr (.inr ⟨.floydSteinberg, thr, rfl⟩)
  | qedbK13 thr => exact .inr (.inr ⟨.floydSteinberg, thr, rfl⟩)
  | qedbK14 thr => exact .inr (.inr ⟨.floydSteinberg, thr, rfl⟩)
  | qedbK15 thr => exact .inr (.inr ⟨.floydSteinberg, thr, rfl⟩)
  | qednFs levels => exact ⟨.floydSteinberg, rfl⟩
  | qednJjn levels => exact ⟨.jarvis, rfl⟩
  | qednK2 levels => exact ⟨.floydSteinberg, rfl⟩
  | qednK3 levels => exact ⟨.floydSteinberg, rfl⟩
  | qednK4 levels => exact ⟨.floydSteinberg, rfl⟩
  | qednK5 levels => exact ⟨.floydSteinberg, rfl⟩
  | qednK6 levels => exact ⟨.floydSteinberg, rfl⟩
  | qednK7 levels => exact ⟨.floydSteinberg, rfl⟩
  | qednK8 levels => exact ⟨.floydSteinberg, rfl⟩
  | qednK9 levels => exact ⟨.floydSteinberg, rfl⟩
  | qednK10 levels => exact ⟨.floydSteinberg, rfl⟩
  | qednK11 levels => exact ⟨.floydSteinberg, rfl⟩
  | qednK12 levels => exact ⟨.floydSteinberg, rfl⟩
  | qednK13 levels => exact ⟨.floydSteinberg, rfl⟩
  | qednK14 levels => exact ⟨.floydSteinberg, rfl⟩
  | qednK15 levels => exact ⟨.floydSteinberg, rfl⟩
  | qpalNone npal preinv => exact .inl ⟨preinv, rfl⟩
  | qpalFs npal preinv => exact .inr ⟨.floydSteinberg, preinv, rfl⟩
  | qpalFfs npal preinv => exact .inr ⟨.falseFloydSteinberg, preinv, rfl⟩
  | qpalJarvis npal preinv => exact .inr ⟨.jarvis, preinv, rfl⟩
  | qpalStucki npal preinv => exact .inr ⟨.stucki, preinv, rfl⟩
  | qpalAtkinson npal preinv => exact .inr ⟨.atkinson, preinv, rfl⟩
  | qpalBurkes npal preinv => exact .inr ⟨.burkes, preinv, rfl⟩
  | qpalSierra npal preinv => exact .inr ⟨.sierra, preinv, rfl⟩
  | qpalTwosierra npal preinv => exact .inr ⟨.twoSierra, preinv, rfl⟩
  | qpalSierralite npal preinv => exact .inr ⟨.sierraLite, preinv, rfl⟩
  | qpalK10 npal preinv => exact .inr ⟨.floydSteinberg, preinv, rfl⟩
  | qpalK11 npal preinv => exact .inr ⟨.floydSteinberg, preinv, rfl⟩
  | qpalK12 npal preinv => exact .inr ⟨.floydSteinberg, preinv, rfl⟩
  | qpalK13 npal preinv => exact .inr ⟨.floydSteinberg, preinv, rfl⟩
  | qpalK14 npal preinv => exact .inr ⟨.floydSteinberg, preinv, rfl⟩
  | qpalK15 npal preinv => exact .inr ⟨.floydSteinberg, preinv, rfl⟩
  | reservedOp7 => exact rfl
  | pack1 inv => exact .inl ⟨rfl, inv, rfl⟩
  | pack2 => exact .inr (.inl ⟨rfl, rfl⟩)
  | pack3 => exact .inr (.inr ⟨rfl, rfl⟩)
  | pack4 inv => exact ⟨inv, rfl⟩
  | reservedOp12 => exact rfl
  | reservedOp13 => exact rfl
  | reservedOp14 => exact rfl
  | reservedOp15 => exact rfl

end Sys2Proof.Machine
end

