-- ==== Sys2Proof/Laws/Flags.lean ====
section
/-! SUPPORT. `STATUS` bit by bit, and what a write of it leaves. -/

namespace Sys2Proof.Machine

theorem Status.word_fault (st : Status) : st.word.getLsbD 0 = st.fault := by
  simp only [Status.word, BitVec.getLsbD_append]
  simp

theorem Status.word_illop (st : Status) : st.word.getLsbD 1 = st.illop := by
  simp only [Status.word, BitVec.getLsbD_append]
  simp

@[simp] theorem Status.afterWrite_fault (st : Status) (v : Word) : (st.afterWrite v).fault = st.fault := by
  simp only [Status.afterWrite]; split <;> rfl

@[simp] theorem Status.afterWrite_cause (st : Status) (v : Word) : (st.afterWrite v).cause = st.cause := by
  simp only [Status.afterWrite]; split <;> rfl

@[simp] theorem Status.afterWrite_illop (st : Status) (v : Word) :
    (st.afterWrite v).illop = (st.illop && !v.getLsbD 1) := by
  simp only [Status.afterWrite]; split <;> simp_all

end Sys2Proof.Machine
end

