-- ==== Sys2Proof/Laws/Packers.lean ====
section
/-! SUPPORT. What the packers share: the buffer's length, and one byte of it after a pixel is or-ed in. -/

namespace Sys2Proof.Machine

@[simp] theorem orByte_length (buf : List Byte) (b : Nat) (v : Byte) : (orByte buf b v).length = buf.length := by
  simp [orByte]

/-- Or-ing into one byte changes that byte alone. -/
theorem orByte_getElem? (buf : List Byte) (b : Nat) (v : Byte) (j : Nat) :
    (orByte buf b v)[j]? = if b = j then buf[j]?.map (· ||| v) else buf[j]? := by
  rw [orByte, List.getElem?_modify]
  by_cases h : b = j <;> simp [h]

/-- A fold that or-s one value in for each pixel keeps the buffer's length. -/
theorem orFold_length (f : ScanPos → Nat) (g : ScanPos → Byte) (scan : List ScanPos) (buf : List Byte) :
    (scan.foldl (fun buf p => orByte buf (f p) (g p)) buf).length = buf.length := by
  induction scan generalizing buf with
  | nil => rfl
  | cons p ps ih => simp [ih]

@[simp] theorem pack1_length (inv : Bool) (w h : Nat) (idx : List Byte) :
    (pack1 inv w h idx).length = bpr1 w * h := by
  simp [pack1, orFold_length]

@[simp] theorem pack2_length (w h : Nat) (idx : List Byte) : (pack2 w h idx).length = bpr2 w * h := by
  simp [pack2, orFold_length]

@[simp] theorem pack3_length (w h : Nat) (idx : List Byte) : (pack3 w h idx).length = bpr3 w * h := by
  simp only [pack3]
  rw [orFold_length fun p => p.y * bpr3 w + p.x / 2]
  simp

@[simp] theorem pack4_length (inv : Bool) (w h : Nat) (samples : List Byte) :
    (pack4 inv w h samples).length = bpr4 w * h := by
  simp only [pack4]
  rw [orFold_length fun p => p.y * bpr4 w + p.x / 2]
  simp

end Sys2Proof.Machine
end

