-- ==== Sys2Proof/Laws/Step.lean ====
section
/-! SUPPORT. What a step can do: one inversion lemma, and what each kind of transaction does. -/

namespace Sys2Proof.Machine

/-- A `CMD` write is decoded from its word. -/
@[simp] theorem fetchCommand_eq (c : Word) : fetchCommand c = decodeWord c := by
  have := decode_wordBytes c []
  rw [List.append_nil] at this
  simp [fetchCommand, this]

/-- A command's `CMD` write answers a next state exactly when the command does. -/
theorem finishCommand_next {r : Result} {t : State} :
    finishCommand r = .next t ↔ ∃ u, r = .next u ∧ t = u.endCommand := by
  cases r <;> simp [finishCommand, eq_comm]

/-- Everything a step that answers a next state can be: idle, a read, a write of `CMD` in the fault state, a command
run to completion, any other write, or reset. -/
theorem step_cases {s t : State} (h : step s = .next t) :
    (s.pending = [] ∧ t = s) ∨
      ∃ op rest, s.pending = op :: rest ∧
        ((∃ a w, op = .read a w ∧ ({ s with pending := rest } : State).hostRead a w = .next t) ∨
          (∃ c, op = .write cmdOffset .word c ∧ s.status.fault = true ∧
            t = ({ s with pending := rest } : State).respond .writeDone) ∨
          (∃ c u, op = .write cmdOffset .word c ∧ s.status.fault = false ∧
            exec (decodeWord c) (({ s with pending := rest } : State).beginCommand c) = .next u ∧ t = u.endCommand) ∨
          (∃ a w v, op = .write a w v ∧ isCmdWrite a w = false ∧
            t = ({ s with pending := rest } : State).hostStore a w v) ∨
          (op = .reset ∧ t = ({ s with pending := rest } : State).afterReset)) := by
  simp only [step, State.serveNext] at h
  split at h
  · rename_i hp
    cases h
    exact .inl ⟨hp, rfl⟩
  · rename_i op rest hp
    refine .inr ⟨op, rest, hp, ?_⟩
    cases op with
    | read a w => exact .inl ⟨a, w, rfl, h⟩
    | reset =>
      simp only [State.serve, Host.Outcome.next.injEq] at h
      exact .inr (.inr (.inr (.inr ⟨rfl, h.symm⟩)))
    | write a w v =>
      simp only [State.serve] at h
      split at h
      · rename_i hc
        simp only [isCmdWrite, Bool.and_eq_true, decide_eq_true_eq] at hc
        obtain ⟨rfl, rfl⟩ := hc
        simp only [State.issue] at h
        split at h
        · rename_i hf
          cases h
          exact .inr (.inl ⟨v, rfl, hf, rfl⟩)
        · rename_i hf
          obtain ⟨u, hu, rfl⟩ := finishCommand_next.1 h
          rw [fetchCommand_eq] at hu
          exact .inr (.inr (.inl ⟨v, u, rfl, by simpa using hf, hu, rfl⟩))
      · rename_i hc
        cases h
        exact .inr (.inr (.inr (.inl ⟨a, w, v, rfl, by simpa using hc, rfl⟩)))

/-- A host read changes nothing but the answer on the bus. -/
theorem State.hostRead_next {s t : State} {a : Nat} {w : AccessWidth} (h : s.hostRead a w = .next t) :
    ∃ r, t = s.respond r := by
  simp only [State.hostRead] at h
  split at h
  · cases h; exact ⟨_, rfl⟩
  · split at h
    · cases h; exact ⟨_, rfl⟩
    · cases h
  · cases h; exact ⟨_, rfl⟩

/-- What a host write that is no command can do: store a register, store bytes of one memory, or give a bus error. -/
theorem State.hostStore_cases (s : State) (a : Nat) (w : AccessWidth) (v : Word) :
    (∃ r, target s.cfg.maxPix a w = .reg r ∧ s.hostStore a w v = (s.writeReg r v).respond .writeDone) ∨
      (target s.cfg.maxPix a w = .mem ∧
        s.hostStore a w v = ({ s with mem := s.mem.writeBytes a (w.dataBytes v) } : State).respond .writeDone) ∨
      (target s.cfg.maxPix a w = .error ∧ s.hostStore a w v = s.respond .busError) := by
  simp only [State.hostStore]
  cases h : target s.cfg.maxPix a w with
  | reg r => exact .inl ⟨r, rfl, rfl⟩
  | mem => exact .inr (.inl ⟨rfl, rfl⟩)
  | error => exact .inr (.inr ⟨rfl, rfl⟩)

/-- What a register write can change: `WIDTH`, `HEIGHT`, `MODEID` and `ILLOP`. -/
theorem State.writeReg_eq (s : State) (r : Reg) (v : Word) :
    ∃ w h m st, s.writeReg r v = { s with width := w, height := h, modeId := m, status := st } ∧
      st.fault = s.status.fault ∧ st.cause = s.status.cause := by
  cases r <;> first
    | exact ⟨_, _, _, _, rfl, rfl, rfl⟩
    | exact ⟨_, _, _, _, rfl, Status.afterWrite_fault _ _, Status.afterWrite_cause _ _⟩

/-- The word the host will write next, and what is behind it. -/
@[simp] theorem State.withFetchWord_pending (s : State) (nbits w : Nat) :
    (s.withFetchWord nbits w).pending = .write cmdOffset .word (tableWord nbits w) :: s.pending := rfl

end Sys2Proof.Machine
end

