-- ==== Sys2Proof/Tests/Slice0.lean ====
section
/-! SUPPORT. Tests on fixed values, and for every obligation with hypotheses a concrete state and operands that meet them.
Expected results are the vectors of spec/95_test_vectors.md (S, V, P) and words laid out by hand from the fields of
spec/30_encoding.md R91 to R96, never the model's own answers. -/

namespace Sys2Proof.Tests

open Sys2Proof.Machine

-- one kernel evaluation at a time: each waiting one would hold a stack of its own
set_option Elab.async false

/-! ## Helpers -/

/-- Bytes at consecutive addresses. -/
def cells (a : Nat) (bytes : List Byte) : Memory := bytes.mapIdx fun k b => (a + k, b)

/-- A `w` by `h` machine, else as after reset, with a memory. -/
def machine (w h : Half) (mem : Memory) : State := { State.reset with width := w, height := h, mem := mem }

/-- With `GRAY` filled from element 0. -/
def grayMachine (w h : Half) (bytes : List Byte) : State := machine w h (cells 0x02000000 bytes)

/-- With `IDX` filled from element 0. -/
def idxMachine (w h : Half) (bytes : List Byte) : State := machine w h (cells 0x03000000 bytes)

/-- The same machine with 53 significand bits and a least value of `2^-120`, which the kernel computes with faster. Used for
vectors of which spec/95 says that they do not depend on the format (exact arithmetic gives the same indices). -/
def shortened (s : State) : State := { s with cfg := { edqConfig with fmt := ⟨53, 120⟩ } }

/-- The palette of V30 to V34: white, black, red. -/
def threeColours : Memory := cells 0x100 [255, 255, 255, 255, 0, 0, 0, 255, 255, 0, 0, 255]

/-- With that palette and `SRC` filled from element 0. -/
def colourMachine (w h : Half) (bytes : List Byte) : State := machine w h (threeColours ++ cells 0x01000000 bytes)

/-- The source of V33 and V34. -/
def v33 : State :=
  shortened <| colourMachine 3 2
    ([200, 100, 100, 255, 200, 100, 100, 255, 200, 100, 100, 255] ++
      [100, 100, 100, 255, 100, 100, 100, 255, 100, 100, 100, 255])

/-- The machine of P5 after its fault. -/
def faulted : State :=
  { grayMachine 2 1 [10, 200] with status := { fault := true, illop := false, cause := 1 }, faultCmd := 0x105 }

/-- What is seen of the next state, if there is one. -/
def seen {A : Type} (r : Result) (f : State → A) : Option A :=
  match r with
  | .next t => some (f t)
  | _ => none

/-- The reason a command or a step stops, if it does. -/
def stopOf (r : Result) : Option (Fault ⊕ Refusal) :=
  match r with
  | .next _ => none
  | .fault f => some (.inl f)
  | .refused f => some (.inr f)

/-- `IDX` of the grid. -/
def idxOf (t : State) : Option (List Byte) := t.mem.idxGrid t.pixels

/-- `PREV.R` of the grid. -/
def prevRedOf (t : State) : Option (List Byte) := t.mem.prevRedGrid t.pixels

/-- The `RES_LEN` first bytes of `PBUF`. -/
def pbufOf (t : State) : Option (List Byte) := t.mem.readBytes 0x05000000 t.resLen.toNat

/-- The host will do this next. -/
def next (s : State) (op : HostOp) : State := { s with pending := [op] }

/-- A machine about to execute a command word. -/
def issuing (s : State) (c : Word) : State := next s (.write 0x10 .word c)

/-! ## Well-formedness -/

theorem test_npal_zero_refused : (Instr.qpalNone 0 false).wf = false := by decide
theorem test_npal_seventeen_refused : (Instr.qpalNone 17 true).wf = false := by decide
theorem test_npal_bounds_admitted : (Instr.qpalFs 1 false).wf = true ∧ (Instr.qpalK15 16 true).wf = true := by decide

/-- Every palette command refuses an empty palette and one above `PAL_MAX`. -/
theorem test_npal_checked_everywhere :
    ([Instr.qpalNone, Instr.qpalFs, Instr.qpalFfs, Instr.qpalJarvis, Instr.qpalStucki, Instr.qpalAtkinson, Instr.qpalBurkes, Instr.qpalSierra].all fun c =>
      !(c 0 false).wf && !(c 17 false).wf && (c 1 true).wf && (c 16 true).wf) = true ∧
    ([Instr.qpalTwosierra, Instr.qpalSierralite, Instr.qpalK10, Instr.qpalK11, Instr.qpalK12, Instr.qpalK13, Instr.qpalK14, Instr.qpalK15].all fun c =>
      !(c 0 false).wf && !(c 17 false).wf && (c 1 true).wf && (c 16 true).wf) = true := by decide

/-- A kernel with no divisor, one with a tap behind on its own row, and one with two taps on one neighbour. -/
theorem test_bad_kernels_refused :
    (Kernel.wf ⟨[⟨1, 0, 1⟩], 0⟩ = false) ∧ (Kernel.wf ⟨[⟨0, 0, 1⟩], 1⟩ = false) ∧
      (Kernel.wf ⟨[⟨1, 0, 1⟩, ⟨1, 0, 2⟩], 3⟩ = false) ∧ edqConfig.wf = true := by decide
/-- A capacity of 0 and one above `2^22` (00_scope.md R10). -/
theorem test_bad_capacity_refused :
    (Config.wf { edqConfig with maxPix := 0 } = false) ∧ (Config.wf { edqConfig with maxPix := 4194305 } = false) ∧
      Config.wf { edqConfig with maxPix := 1, fmt := binary32 } = true := by decide

/-! ## Decoding -/

/-- One word of each format, bit by bit (30_encoding.md R91, R93): `OP` 3:0, `KSEL` 7:4, `IMM8` 15:8, `NPALM1` 11:8, `INV`
16, `PREINV` 17. -/
theorem test_words_bit_by_bit :
    decodeWord 0b00000000000000000000000000000000 = .nop ∧
    decodeWord 0b00000000000000000000000000000001 = .tone ∧
    decodeWord 0b00000000000000001000000000000010 = .qthr 128 ∧
    decodeWord 0b00000000000000001000000100000011 = .qord 129 ∧
    decodeWord 0b00000000000000000000000100010100 = .qedbJjn 1 ∧
    decodeWord 0b00000000000000001000000000000101 = .qednFs 128 ∧
    decodeWord 0b00000000000000100000000110010110 = .qpalSierralite 2 true ∧
    decodeWord 0b00000000000000000000111100010110 = .qpalFs 16 false ∧
    decodeWord 0b00000000000000010000000000001000 = .pack1 true ∧
    decodeWord 0b00000000000000000000000000001001 = .pack2 ∧
    decodeWord 0b00000000000000010000000000001011 = .pack4 true ∧
    decodeWord 0b00000000000000000000000000000111 = .reservedOp7 := by decide

/-! Every row of the opcode table, its operands at a value with bits at both ends. -/

theorem test_decode_core :
    ([
      0x00000000, 0x00000001, 0x00008102, 0x00008103, 0x00000007, 0x00010008, 0x00000009, 0x0000000A,
      0x0001000B, 0x0000000C, 0x0000000D, 0x0000000E, 0x0000000F].map
        fun c : Word => decodeWord c) = [
      .nop, .tone, .qthr 129, .qord 129, .reservedOp7, .pack1 true, .pack2, .pack3, .pack4 true, .reservedOp12,
      .reservedOp13, .reservedOp14, .reservedOp15] := by decide

theorem test_decode_qedb :
    ([
      0x00008104, 0x00008114, 0x00008124, 0x00008134, 0x00008144, 0x00008154, 0x00008164, 0x00008174,
      0x00008184, 0x00008194, 0x000081A4, 0x000081B4, 0x000081C4, 0x000081D4, 0x000081E4, 0x000081F4].map
        fun c : Word => decodeWord c) = [
      .qedbFs 129, .qedbJjn 129, .qedbK2 129, .qedbK3 129, .qedbK4 129, .qedbK5 129, .qedbK6 129, .qedbK7 129,
      .qedbK8 129, .qedbK9 129, .qedbK10 129, .qedbK11 129, .qedbK12 129, .qedbK13 129, .qedbK14 129,
      .qedbK15 129] := by decide

theorem test_decode_qedn :
    ([
      0x00008105, 0x00008115, 0x00008125, 0x00008135, 0x00008145, 0x00008155, 0x00008165, 0x00008175,
      0x00008185, 0x00008195, 0x000081A5, 0x000081B5, 0x000081C5, 0x000081D5, 0x000081E5, 0x000081F5].map
        fun c : Word => decodeWord c) = [
      .qednFs 129, .qednJjn 129, .qednK2 129, .qednK3 129, .qednK4 129, .qednK5 129, .qednK6 129, .qednK7 129,
      .qednK8 129, .qednK9 129, .qednK10 129, .qednK11 129, .qednK12 129, .qednK13 129, .qednK14 129,
      .qednK15 129] := by decide

theorem test_decode_qpal :
    ([
      0x00020906, 0x00020916, 0x00020926, 0x00020936, 0x00020946, 0x00020956, 0x00020966, 0x00020976,
      0x00020986, 0x00020996, 0x000209A6, 0x000209B6, 0x000209C6, 0x000209D6, 0x000209E6, 0x000209F6].map
        fun c : Word => decodeWord c) = [
      .qpalNone 10 true, .qpalFs 10 true, .qpalFfs 10 true, .qpalJarvis 10 true, .qpalStucki 10 true,
      .qpalAtkinson 10 true, .qpalBurkes 10 true, .qpalSierra 10 true, .qpalTwosierra 10 true,
      .qpalSierralite 10 true, .qpalK10 10 true, .qpalK11 10 true, .qpalK12 10 true, .qpalK13 10 true,
      .qpalK14 10 true, .qpalK15 10 true] := by decide

/-- Fewer than four bytes are no command; bytes after a command are left. -/
theorem test_decode_bytes :
    decode [0x02, 0x80, 0x00] = .error .truncated ∧
      decode [0x02, 0x80, 0x00, 0x00, 0xAA] = .ok (.qthr 128, [0xAA]) := by decide

/-- The opcode table's numbering is the command word's own. -/
theorem test_table_word : decodeTableWord 32 0x00020F96 = some (.qpalSierralite 16 true) ∧
    decodeTableWord 32 0xFFFFFFFF = some .reservedOp15 := by decide

/-- The step after `withFetchWord` runs that word: `QEDN 1` faults, the very first command after reset. -/
theorem test_fetch_word :
    seen (step (State.reset.withFetchWord 32 0x00000105)) (fun t => (t.readReg .status, t.faultCmd)) =
      some (0x00000011, 0x00000105) := by decide +kernel

/-! ## One command -/

/-- V50: `NOP` leaves the machine as it was. -/
theorem test_nop : seen (exec .nop (grayMachine 1 1 [7])) id = some (grayMachine 1 1 [7]) := by decide +kernel

/-- V1: a table row, the exact tie, the ends. -/
theorem test_tone_V1 :
    seen (exec .tone (machine 4 1 (cells 0x01000000
        [255, 0, 0, 0, 0, 14, 76, 255, 255, 255, 255, 255, 200, 100, 50, 255])))
      (fun t => t.mem.grayGrid 4) = some (some [54, 16, 255, 118]) := by decide +kernel
/-- V1: in the other arithmetic the tie of `(0, 14, 76)` is 15.499999999999998. -/
theorem test_tone_float_V1 : lumaFloat binary64 ⟨0, 14, 76⟩ = 15 ∧ lumaFloat binary64 ⟨255, 255, 255⟩ = 255 := by
  decide +kernel

/-- V3. -/
theorem test_qthr_V3 :
    seen (exec (.qthr 128) (grayMachine 7 1 [0, 1, 127, 128, 129, 254, 255])) (fun t => (idxOf t, prevRedOf t)) =
      some (some [0, 0, 0, 0, 1, 1, 1], some [0, 0, 0, 0, 255, 255, 255]) := by decide +kernel
/-- S5: the counter-case. -/
theorem test_qthr_S5 : seen (exec (.qthr 255) (grayMachine 1 1 [255])) prevRedOf = some (some [0]) := by decide +kernel

/-- V4. -/
theorem test_qord_V4 :
    seen (exec (.qord 128) (grayMachine 6 2 [32, 128, 33, 129, 0, 255, 176, 80, 177, 81, 0, 255])) idxOf =
      some (some [1, 1, 0, 0, 1, 0, 1, 1, 0, 0, 1, 0]) := by decide +kernel
/-- V4, polarity reversed. -/
theorem test_qord_reversed_V4 :
    seen (exec (.qord 128) { grayMachine 6 2 [32, 128, 33, 129, 0, 255, 176, 80, 177, 81, 0, 255] with
        cfg := { edqConfig with ordDarkIfGreater := false } }) idxOf =
      some (some [0, 0, 1, 1, 0, 1, 0, 0, 1, 1, 0, 1]) := by decide +kernel

/-- V20, and V25 for the reserved kernel codes. -/
theorem test_qedb_fs_V20 :
    ([Instr.qedbFs 128, .qedbK2 128, .qedbK3 128, .qedbK4 128, .qedbK5 128, .qedbK6 128, .qedbK7 128, .qedbK8 128,
        .qedbK9 128, .qedbK10 128, .qedbK11 128, .qedbK12 128, .qedbK13 128, .qedbK14 128, .qedbK15 128].map fun i =>
      seen (exec i (grayMachine 2 2 [100, 200, 50, 150])) (fun t => (idxOf t, prevRedOf t))) =
      List.replicate 15 (some (some [0, 1, 0, 1], some [0, 255, 0, 255])) := by decide +kernel
/-- V21. -/
theorem test_qedb_jjn_V21 :
    seen (exec (.qedbJjn 128) (shortened (grayMachine 3 3 [100, 100, 100, 100, 100, 100, 100, 100, 100]))) idxOf =
      some (some [0, 0, 0, 1, 0, 1, 0, 1, 0]) := by decide +kernel
/-- V27: the second row of the uniform field 64 after the first, both over the full width. -/
theorem test_qedb_fs_V27 :
    seen (exec (.qedbFs 128) (shortened (grayMachine 8 2 (List.replicate 16 64)))) idxOf =
      some (some [0, 0, 0, 0, 0, 0, 0, 0, 0, 1, 0, 1, 0, 1, 0, 1]) := by decide +kernel

/-- V23 (S3): serpentine scan, mirrored taps, the clamp at 0; and the reserved kernel codes. -/
theorem test_qedn_fs_V23 :
    ([Instr.qednFs 2, .qednK2 2, .qednK3 2, .qednK4 2, .qednK5 2, .qednK6 2, .qednK7 2, .qednK8 2, .qednK9 2,
        .qednK10 2, .qednK11 2, .qednK12 2, .qednK13 2, .qednK14 2, .qednK15 2].map fun i =>
      seen (exec i (grayMachine 3 2 [128, 255, 160, 64, 160, 160])) (fun t => (idxOf t, prevRedOf t))) =
      List.replicate 15 (some (some [1, 1, 1, 0, 1, 0], some [255, 255, 255, 0, 255, 0])) := by decide +kernel
/-- V22: more levels, the clamp at 255. -/
theorem test_qedn_fs_V22 :
    seen (exec (.qednFs 4) (grayMachine 3 2 [0, 60, 130, 200, 255, 90])) (fun t => (idxOf t, prevRedOf t)) =
      some (some [0, 1, 1, 2, 3, 1], some [0, 85, 85, 170, 255, 85]) := by decide +kernel
/-- V26, `QEDN.JJN 4`. -/
theorem test_qedn_jjn_V26 :
    seen (exec (.qednJjn 4) (shortened (grayMachine 4 3
      [10, 80, 160, 240, 30, 100, 180, 250, 60, 120, 200, 255]))) idxOf =
      some (some [0, 1, 2, 3, 0, 1, 2, 3, 1, 1, 2, 3]) := by decide +kernel
/-- V28: `QEDN.JJN 0` faults with nothing written yet, and changes nothing else. -/
theorem test_qedn_jjn_V28 :
    seen (exec (.qednJjn 0) { machine 9 9 [] with busData := 0x00000015 }) id =
      some { machine 9 9 [] with busData := 0x00000015, faultCmd := 0x00000015,
                                 status := { fault := true, illop := false, cause := 1 } } := by decide +kernel

/-- V30: alpha comes from the source. -/
theorem test_qpal_none_V30 :
    seen (exec (.qpalNone 3 false) (colourMachine 3 1 [30, 30, 30, 0, 200, 100, 100, 255, 128, 128, 128, 255]))
      (fun t => (idxOf t, t.mem.readBytes 0x04000000 12)) =
      some (some [1, 2, 0], some [0, 0, 0, 0, 255, 0, 0, 255, 255, 255, 255, 255]) := by decide +kernel
/-- V32: pre-inversion, the palette colour not inverted back. -/
theorem test_qpal_none_V32 :
    seen (exec (.qpalNone 3 true) (colourMachine 1 1 [255, 0, 0, 255]))
      (fun t => (idxOf t, t.mem.readBytes 0x04000000 4)) = some (some [0], some [255, 255, 255, 255]) := by
  decide +kernel
/-- V34: every kernel on one source. -/
theorem test_qpal_kernels_V34 :
    ([Instr.qpalFs 3 false, .qpalFfs 3 false, .qpalJarvis 3 false, .qpalStucki 3 false, .qpalAtkinson 3 false,
        .qpalBurkes 3 false, .qpalSierra 3 false, .qpalTwosierra 3 false, .qpalSierralite 3 false].map fun i =>
      seen (exec i v33) idxOf) =
      [some (some [2, 0, 2, 0, 1, 1]), some (some [2, 0, 2, 0, 1, 1]), some (some [2, 2, 2, 1, 0, 1]),
       some (some [2, 2, 0, 0, 1, 1]), some (some [2, 2, 2, 1, 0, 1]), some (some [2, 2, 0, 1, 0, 1]),
       some (some [2, 2, 2, 1, 0, 1]), some (some [2, 2, 0, 1, 0, 1]), some (some [2, 0, 2, 0, 1, 1])] := by
  decide +kernel
/-- V34, reserved codes and pre-inversion. -/
theorem test_qpal_reserved_V34 :
    ([Instr.qpalK10 3 false, .qpalK11 3 false, .qpalK12 3 false, .qpalK13 3 false, .qpalK14 3 false,
        .qpalK15 3 false, .qpalFs 3 true].map fun i => seen (exec i v33) idxOf) =
      List.replicate 6 (some (some [2, 0, 2, 0, 1, 1])) ++ [some (some [1, 0, 1, 0, 1, 0])] := by decide +kernel

/-- V40, both polarities: dark packs as 1, padding stays 0. -/
theorem test_pack1_V40 :
    ([false, true].map fun inv =>
      seen (exec (.pack1 inv) (idxMachine 10 1 [0, 1, 1, 0, 0, 0, 1, 0, 1, 1])) pbufOf) =
      [some (some [0x9D, 0x00]), some (some [0x62, 0xC0])] := by decide +kernel
/-- V41, and the metadata. -/
theorem test_pack2_V41 :
    seen (exec .pack2 { idxMachine 3 2 [2, 0, 1, 1, 1, 0] with modeId := 7 })
      (fun t => (pbufOf t, t.resWidth, t.resHeight, t.resBpp, t.resModeId, t.resLen)) =
      some (some [0x84, 0x50], 3, 2, 2, 7, 2) := by decide +kernel
/-- S4, and V42: rows padded, indices masked. -/
theorem test_pack3_S4_V42 :
    seen (exec .pack3 (idxMachine 2 1 [5, 2])) pbufOf = some (some [0xA4]) ∧
    seen (exec .pack3 (idxMachine 3 2 [7, 0, 3, 1, 6, 4])) pbufOf = some (some [0xE0, 0x60, 0x2C, 0x80]) ∧
    seen (exec .pack3 (idxMachine 1 1 [13])) pbufOf = some (some [0xA0]) := by decide +kernel
/-- V43, both polarities. -/
theorem test_pack4_V43 :
    ([false, true].map fun inv =>
      seen (exec (.pack4 inv) (machine 3 1 (cells 0x04000000
        [0x12, 0, 0, 0, 0xF0, 0, 0, 0, 0x80, 0, 0, 0]))) pbufOf) =
      [some (some [0x1F, 0x80]), some (some [0xE0, 0x70])] := by decide +kernel
/-- V44: an empty grid. -/
theorem test_pack2_V44 :
    seen (exec .pack2 (machine 0 5 [])) id = some { machine 0 5 [] with resHeight := 5, resBpp := 2 } := by
  decide +kernel

/-- P6: a reserved opcode sets `ILLOP`, bit 1 of `STATUS`, and nothing else. -/
theorem test_reserved_P6 :
    ([Instr.reservedOp7, .reservedOp12, .reservedOp13, .reservedOp14, .reservedOp15].map fun i =>
      seen (exec i (idxMachine 2 1 [5, 2])) (fun t => (t.readReg .status, { t with status := State.reset.status }))) =
      List.replicate 5 (some (0x00000002, idxMachine 2 1 [5, 2])) := by decide +kernel

/-! ## Stops -/

/-- U3: a grid whose second sample nothing has written. -/
theorem test_unwritten_faults : stopOf (exec (.qthr 1) (grayMachine 2 1 [5])) = some (.inl .unwrittenElement) := by
  decide +kernel
/-- U1: a grid one pixel larger than the memories. -/
theorem test_large_grid_refused :
    stopOf (exec (.qthr 1) { grayMachine 2 1 [5, 6] with cfg := { edqConfig with maxPix := 1 } }) =
      some (.inr .gridExceedsCapacity) := by decide +kernel

/-! ## Host port and reset -/

/-- P1: a 32-bit write of `0xFF0000FF` at `0x01000000` is `SRC[0] = (255, 0, 0, 255)`. -/
theorem test_src_write_P1 :
    seen (step (next State.reset (.write 0x01000000 .word 0xFF0000FF))) (fun t => t.mem) =
      some [(0x01000000, 255), (0x01000001, 0), (0x01000002, 0), (0x01000003, 255)] := by decide +kernel
/-- P5: a `CMD` write in the fault state is ignored and completes; `STATUS` reads `0x11`. -/
theorem test_fault_state_P5 :
    seen (step (next faulted (.write 0x10 .word 0x00008002))) id = some { faulted with response := .writeDone } ∧
    seen (step (next faulted (.read 0x14 .word))) (fun t => t.response) = some (.readData 0x00000011) := by
  decide +kernel
/-- P5: reset leaves the fault state and keeps the memories. -/
theorem test_reset_P5 :
    seen (step (next faulted .reset)) id = some (grayMachine 0 0 [10, 200]) := by decide +kernel
/-- R68, R69: a byte access to a register, the offset with no register, a misaligned half word, past the last element. -/
theorem test_bus_errors :
    ([HostOp.read 0x00 .byte, .read 0x1C .word, .read 0x02000001 .half, .write 0x02400000 .byte 1, .write 0x140 .word 1].map
      fun op => seen (step (next State.reset op)) (fun t => (t.response, t.mem))) =
      List.replicate 5 (some (.busError, [])) := by decide +kernel

/-! ## Hypotheses that can be met

For each obligation with hypotheses a state and operands that meet them; for several clauses, each clause. -/

/-- DecodeInvertsEncode, at both ends of the palette size. -/
theorem witness_well_formed : (Instr.qpalNone 1 false).wf = true ∧ (Instr.qpalSierralite 16 true).wf = true := by decide

/-- IgnoredBitsDoNotMatter: V50's two `QPAL.NONE 3`. -/
theorem witness_ignored_bits :
    opField 0x00000206 = opField 0xFFFDF206 ∧
      (0x00000206#32 &&& readMask (opField 0x00000206) = 0xFFFDF206#32 &&& readMask (opField 0x00000206)) := by decide

/-- CmdWriteRunsTheDecodedCommand, each case: ignored, run, faulting, refused. -/
theorem witness_cmd_write :
    (issuing faulted 1).pending = .write 0x10 .word 1 :: [] ∧ decode (wordBytes 1) = .ok (.tone, []) ∧
    (issuing faulted 1).status.fault = true ∧ (machine 0 0 []).status.fault = false ∧
    (seen (exec .tone { issuing (machine 0 0 []) 1 with pending := [], busData := 1 }) id).isSome = true ∧
    stopOf (exec .tone { issuing (machine 1 1 []) 1 with pending := [], busData := 1 }) = some (.inl .unwrittenElement) ∧
    stopOf (exec .tone { issuing (machine 65535 65535 []) 1 with pending := [], busData := 1 }) =
      some (.inr .gridExceedsCapacity) := by
  decide +kernel

/-- IdleHoldsAllState. -/
theorem witness_idle : State.reset.pending = [] := by decide

/-- NopChangesNothing, in the fault state and out of it. -/
theorem witness_nop :
    (issuing faulted 0xFFFFFFF0).pending = .write 0x10 .word 0xFFFFFFF0 :: [] ∧ opField 0xFFFFFFF0 = 0 ∧
      (issuing faulted 0xFFFFFFF0).busData = 0 ∧ (issuing State.reset 0xFFFFFFF0).busData = 0 := by decide

/-- ReservedOpcodeSetsIllopOnly: both ends of the list. -/
theorem witness_reserved :
    Instr.reservedOp7 ∈ reservedCommands ∧ Instr.reservedOp15 ∈ reservedCommands ∧
      State.reset.status.fault = false ∧ opField 7 ∈ [7, 12, 13, 14, 15] ∧ opField 0xFFFFFFFF ∈ [7, 12, 13, 14, 15] := by
  decide

/-- FaultEntryRecordsTheWord: `LEVELS` 0 and 1. -/
theorem witness_fault_entry :
    (issuing State.reset 0x105).pending = .write 0x10 .word 0x105 :: [] ∧ State.reset.status.fault = false ∧
      opField 0x105 = 5 ∧ (imm8Field 0x105).toNat < 2 ∧ opField 0x15 = 5 ∧ (imm8Field 0x15).toNat < 2 := by decide

/-- FaultExactlyOnQednFewLevels: a step that enters the fault state and, with `LEVELS` 2, one that does not. -/
theorem witness_fault_exactly :
    seen (step (issuing State.reset 0x105)) (fun t => t.status.fault) = some true ∧
      seen (step (issuing State.reset 0x205)) (fun t => t.status.fault) = some false := by decide +kernel

/-- FaultStateLeftOnlyByReset: a write of all ones to `STATUS`, and reset. -/
theorem witness_fault_state :
    faulted.status.fault = true ∧
      seen (step (next faulted (.write 0x14 .word 0xFFFFFFFF))) (fun t => t.status.fault) = some true ∧
      seen (step (next faulted .reset)) (fun t => t.status.fault) = some false := by decide +kernel

/-- ResetRestoresRegistersKeepsMemories. -/
theorem witness_reset : (next faulted .reset).pending = .reset :: [] := by decide

/-- RegisterReadsReturnTheirFields and RegisterWritesStoreOrAreIgnored: the first and the last entry of each list, and a
write of `STATUS` with bit 1 set where `ILLOP` is set. -/
theorem witness_register_access :
    (next State.reset (.read 0x00 .word)).pending = .read 0x00 .word :: [] ∧
      (next State.reset (.read 0x30 .word)).pending = .read 0x30 .word :: [] ∧
      (next State.reset (.write 0x04 .word 9)).pending = .write 0x04 .word 9 :: [] ∧
      (next State.reset (.write 0x30 .word 9)).pending = .write 0x30 .word 9 :: [] ∧
      (next State.reset.setIllop (.write 0x14 .word 2)).pending = .write 0x14 .word 2 :: [] ∧
      (next State.reset.setIllop (.write 0x14 .word 2)).status.illop = true ∧ (2#32).getLsbD 1 = true := by decide

/-- BusErrorExactlyWhenNotAccepted: accepted accesses, at the last byte of each memory and at the last register. -/
theorem witness_accepted :
    ∀ p ∈ [(0x30, 4), (0x13C, 4), (0x01FFFFFF, 1), (0x023FFFFF, 1), (0x033FFFFE, 2), (0x04FFFFFC, 4), (0x053FFFFF, 1)],
      acceptedAccess 4194304 p.1 p.2 := by
  unfold acceptedAccess
  decide

/-- BusErrorExactlyWhenNotAccepted: accesses just past those, misaligned, narrow, and where no register is. -/
theorem witness_not_accepted :
    ∀ p ∈ [(0x34, 4), (0x140, 4), (0x02400000, 1), (0x033FFFFF, 2), (0x05400000, 1), (0x1C, 4), (0x30, 2), (0x12, 4)],
      ¬ acceptedAccess 4194304 p.1 p.2 := by
  unfold acceptedAccess
  decide

/-- HostWriteStoresLittleEndian: the first byte of a memory and the last. -/
theorem witness_host_write :
    (next State.reset (.write 0x100 .word 1)).pending = .write 0x100 .word 1 :: [] ∧
      acceptedAccess State.reset.cfg.maxPix 0x100 AccessWidth.word.bytes ∧
      acceptedAccess State.reset.cfg.maxPix 0x053FFFFF AccessWidth.byte.bytes := by
  unfold acceptedAccess
  decide

/-- HostReadReturnsLittleEndian: two bytes written, and one of two not. -/
theorem witness_host_read :
    (next (grayMachine 2 1 [10, 200]) (.read 0x02000000 .half)).pending = .read 0x02000000 .half :: [] ∧
      acceptedAccess 4194304 0x02000000 AccessWidth.half.bytes ∧
      (∀ k < 2, ((grayMachine 2 1 [10, 200]).mem.read (0x02000000 + k)).isSome) ∧
      (∃ k < 2, (grayMachine 2 1 [10]).mem.read (0x02000000 + k) = none) := by
  unfold acceptedAccess
  decide +kernel

/-- CommandsWriteOnlyTheirOutputs, CommandsArePureFunctionsOfTheirInputs and RepeatingACommandChangesNothing: one command of
each kind completes, from a machine with admitted parameters and a canonical memory. -/
theorem witness_completes :
    (seen (exec .nop (machine 1 1 [])) id).isSome ∧ (seen (exec .reservedOp12 (machine 1 1 [])) id).isSome ∧
      (seen (exec .tone v33) id).isSome ∧ (seen (exec (.qord 9) (grayMachine 1 1 [5])) id).isSome ∧
      (seen (exec (.qednK2 1) (machine 1 1 [])) id).isSome ∧ (seen (exec (.qednK2 2) (grayMachine 1 1 [5])) id).isSome ∧
      (seen (exec (.qpalNone 3 true) v33) id).isSome ∧ (seen (exec .pack3 (idxMachine 1 1 [5])) id).isSome ∧
      (seen (exec (.pack4 true) (machine 1 1 (cells 0x04000000 [9]))) id).isSome ∧
      State.reset.cfg.wf = true ∧ v33.cfg.wf = true ∧ v33.mem.wf ∧ (Instr.qpalNone 3 true).wf = true := by
  decide +kernel

/-- CommandsArePureFunctionsOfTheirInputs: two machines that differ in all a command does not read. -/
theorem witness_pure :
    let s := grayMachine 2 1 [10, 200]
    let s' := { grayMachine 2 1 [10, 200, 77] with resLen := 9, status := { fault := true, illop := true, cause := 1 },
                                                   pending := [.reset], response := .busError }
    s'.cfg = s.cfg ∧ s'.width = s.width ∧ s'.height = s.height ∧
      (∀ a ∈ (commandKind (.qthr 3)).reads s.pixels, s'.mem.read a = s.mem.read a) ∧
      (seen (exec (.qthr 3) s) id).isSome := by
  decide +kernel

/-- EmittedIndicesAreInRange: each kind of bound. -/
theorem witness_bounds :
    commandKind (.qedbK15 1) = .gray 2 ∧ commandKind (.qpalK15 16 true) = .palette 16 ∧
      (Instr.qpalK15 16 true).wf = true ∧ commandKind (.qednFs 2) = .levels 2 ∧ 2 ≤ (2 : Byte).toNat ∧
      (seen (exec (.qednFs 2) (grayMachine 1 1 [5])) id).isSome ∧ 0 < (grayMachine 1 1 [5]).pixels := by decide +kernel

/-- EmptyGridIsLegal: no columns, no rows. -/
theorem witness_empty : (machine 0 5 []).width = 0 ∧ (machine 5 0 []).height = 0 := by decide

/-- ReservedKernelCodesAreFloydSteinberg: the first reserved code of each family. -/
theorem witness_reserved_kernels :
    2 ≤ (2 : BitVec 4).toNat ∧ qedbOf 2 7 = .qedbK2 7 ∧ qednOf 2 7 = .qednK2 7 ∧ 10 ≤ (10 : BitVec 4).toNat ∧
      qpalOf 10 3 true = .qpalK10 3 true := by decide

/-- ToneInTheOtherArithmetic: the same grid on a machine with the other arithmetic. -/
theorem witness_tone_float :
    let s := { v33 with cfg := { v33.cfg with toneArith := .float } }
    s.cfg.wf = true ∧ s.pixels ≤ s.cfg.maxPix ∧ s.written (chanAddrs .src s.pixels 3) ∧ s.cfg.toneArith = .float ∧
      s.mem.read (chanAddr .src 5 0) = some 100 ∧ s.mem.read (chanAddr .src 5 1) = some 100 ∧
      s.mem.read (chanAddr .src 5 2) = some 100 := by
  unfold State.written
  decide +kernel

/-- ToneWritesLuminance. -/
theorem witness_tone :
    v33.cfg.wf = true ∧ v33.pixels ≤ v33.cfg.maxPix ∧ v33.written (chanAddrs .src v33.pixels 3) ∧
      v33.cfg.toneArith = .exact ∧ opField 0x3FFF1 = 1 ∧
      v33.mem.read (chanAddr .src 5 2) = some 100 := by
  unfold State.written
  decide +kernel

/-- QthrIsAStrictThreshold, QordFollowsThePattern, QthrIsIdempotentBelow255 and QedbAt255IsAllDark: a binary grid. -/
theorem witness_gray :
    let s := grayMachine 2 2 [0, 255, 255, 0]
    s.cfg.wf = true ∧ s.pixels ≤ s.cfg.maxPix ∧ s.written (elemAddrs .gray s.pixels) ∧
      (∀ i < s.pixels, s.mem.read (elemAddr .gray i) = some 0 ∨ s.mem.read (elemAddr .gray i) = some 255) ∧
      opField 0x8002 = 2 ∧ opField 0xFF03 = 3 ∧ 1 < s.gridH ∧ 1 < s.gridW ∧
      (1 % 2, 1 % 2, 64) ∈ [(0, 0, 0), (0, 1, 128), (1, 0, 192), (1, 1, 64)] ∧
      (Instr.qedbJjn 255, KernelId.jarvis) ∈ qedbCommands 255 ∧ (seen (exec (.qedbJjn 255) s) id).isSome := by
  unfold State.written
  decide +kernel

/-- QordFollowsThePattern: a sample on each side of the comparison. -/
theorem witness_qord_sides : ¬ (3 * 64 + 128 < 4 * (80 : Byte).toNat) ∧ 3 * 64 + 128 < 4 * (81 : Byte).toNat := by decide

/-- QedbDiffusesInRasterOrder and QednDiffusesInSerpentineOrder: first and last command, a visited pixel with pixels
before and after it, a value on each side of the threshold, and `LEVELS` 1 and 2. -/
theorem witness_diffusion :
    let s := grayMachine 2 2 [100, 200, 50, 150]
    (Instr.qedbFs 128, KernelId.floydSteinberg) ∈ qedbCommands 128 ∧
      (Instr.qedbK15 128, KernelId.floydSteinberg) ∈ qedbCommands 128 ∧
      (Instr.qednJjn 2, KernelId.jarvis) ∈ qednCommands 2 ∧ (1 : Byte).toNat < 2 ∧ 2 ≤ (2 : Byte).toNat ∧
      s.cfg.wf = true ∧ s.pixels ≤ s.cfg.maxPix ∧ s.written (elemAddrs .gray s.pixels) ∧
      scanRaster s.gridW s.gridH = [⟨0, 0, 1⟩] ++ ⟨1, 0, 1⟩ :: [⟨0, 1, 1⟩, ⟨1, 1, 1⟩] ∧
      scanSerpentine s.gridW s.gridH = [⟨0, 0, 1⟩, ⟨1, 0, 1⟩] ++ ⟨1, 1, -1⟩ :: [⟨0, 1, -1⟩] ∧
      fgt (toF s.cfg.fmt 129) (toF s.cfg.fmt 128) = true ∧ fgt (toF s.cfg.fmt 128) (toF s.cfg.fmt 128) = false ∧
      opField 0x80F4 = 4 ∧ opField 0x405 = 5 := by
  unfold State.written
  decide +kernel

/-- DiffusionIsCausal: a tap to the left of a pixel on a right-to-left row, in both scans. -/
theorem witness_causal :
    edqConfig.wf = true ∧ scanSerpentine 2 2 = [⟨0, 0, 1⟩, ⟨1, 0, 1⟩] ++ ⟨1, 1, -1⟩ :: [⟨0, 1, -1⟩] ∧
      (⟨1, 0, 7⟩ : Tap) ∈ (edqConfig.kernels.get .floydSteinberg).taps ∧
      tapTarget 2 2 ⟨1, 1, -1⟩ ⟨1, 0, 7⟩ = some 2 ∧
      scanRaster 2 1 = [] ++ ⟨0, 0, 1⟩ :: [⟨1, 0, 1⟩] ∧ tapTarget 2 1 ⟨0, 0, 1⟩ ⟨1, 0, 7⟩ = some 1 := by decide

/-- OneTapAtMostReachesANeighbour: a neighbour that a tap reaches, and one that none does. -/
theorem witness_one_tap :
    kernelFloydSteinberg.wf = true ∧ (⟨1, 0, 7⟩ : Tap) ∈ kernelFloydSteinberg.taps ∧
      tapTarget 2 2 ⟨1, 1, -1⟩ ⟨1, 0, 7⟩ = some 2 ∧ (⟨1, 1, -1⟩ : ScanPos).dir = -1 ∧
      ∀ tap ∈ kernelFloydSteinberg.taps, tapTarget 2 2 ⟨1, 1, -1⟩ tap ≠ some 0 := by decide

/-- WorkingValuesStayInRange: a buffer at both ends of the range, and values one unit outside and inside it. -/
theorem witness_range :
    (∀ v ∈ [toF binary32 0, toF binary32 255], inSampleRange binary32 v) ∧
      (-1 : Int) < (toF binary32 0).units ∧ (toF binary32 255).units < 255 * 2 ^ 149 + 1 ∧
      (toF binary32 0).units ≤ 1 ∧ (1 : Int) ≤ (toF binary32 255).units := by
  unfold inSampleRange
  decide +kernel

/-- ScansVisitEachPixelOnceInOrder: the last column of the last row. -/
theorem witness_scan : (1 : Nat) < 2 ∧ (2 : Nat) < 3 := by decide

/-- TapsAreMirroredOnRightToLeftRows: a tap of the second row below, mirrored to the last column, and taps that leave the
grid on the left, on the right and below. -/
theorem witness_taps :
    (((4 : Nat) : Int) = 2 + -1 * -2 ∧ 4 < 5 ∧ 0 + 2 < 3) ∧ (0 : Int) + -1 * 1 < 0 ∧ (5 : Int) ≤ 4 + 1 * 1 ∧ 3 ≤ 2 + 1 := by
  decide

/-- Where those taps land, by R141: column 4 of row 2 of a grid of width 5, and nowhere; and a tap to the left on a
left-to-right row. -/
theorem test_tap_targets :
    tapTarget 5 3 ⟨2, 0, -1⟩ ⟨-2, 2, 1⟩ = some 14 ∧ tapTarget 5 3 ⟨0, 1, -1⟩ ⟨1, 0, 7⟩ = none ∧
      tapTarget 5 3 ⟨4, 1, 1⟩ ⟨1, 1, 1⟩ = none ∧ tapTarget 5 3 ⟨2, 2, 1⟩ ⟨0, 1, 5⟩ = none ∧
      tapTarget 5 3 ⟨2, 0, 1⟩ ⟨-2, 1, 3⟩ = some 5 := by decide

/-- QpalNoneEmitsTheNearestEntry and QpalDiffusesInSerpentineOrder. -/
theorem witness_palette :
    (Instr.qpalNone 3 true).wf = true ∧ (Instr.qpalK15 3 true).wf = true ∧
      (Instr.qpalFs 3 true, KernelId.floydSteinberg) ∈ qpalCommands 3 true ∧
      (Instr.qpalK15 3 true, KernelId.floydSteinberg) ∈ qpalCommands 3 true ∧ v33.cfg.wf = true ∧
      v33.pixels ≤ v33.cfg.maxPix ∧ v33.written (chanAddrs .src v33.pixels 4) ∧ v33.written (chanAddrs .pal 3 3) ∧
      opField 0x206 = 6 ∧ kselField 0x206 = 0 ∧ opField 0x20216 = 6 ∧
      scanSerpentine v33.gridW v33.gridH =
        [⟨0, 0, 1⟩, ⟨1, 0, 1⟩, ⟨2, 0, 1⟩] ++ ⟨2, 1, -1⟩ :: [⟨1, 1, -1⟩, ⟨0, 1, -1⟩] := by
  unfold State.written
  decide +kernel

/-- Pack1PutsOneBitPerPixel, Pack2PutsTwoBitsPerPixel and Pack3PutsANibblePerPixel: a row that ends inside a byte, with
pixels and padding in it. -/
theorem witness_pack_index :
    let s := idxMachine 3 1 [5, 2, 7]
    s.cfg.wf = true ∧ s.pixels ≤ s.cfg.maxPix ∧ s.written (elemAddrs .idx s.pixels) ∧ 0 < s.gridH ∧
      0 < (s.gridW + 7) / 8 ∧ 8 * 0 + 2 < s.gridW ∧ s.gridW ≤ 8 * 0 + 3 ∧
      0 < (s.gridW + 3) / 4 ∧ 4 * 0 + 2 < s.gridW ∧ s.gridW ≤ 4 * 0 + 3 ∧
      1 < (s.gridW + 1) / 2 ∧ 2 * 1 + 0 < s.gridW ∧ s.gridW ≤ 2 * 1 + 1 ∧
      opField 0x10008 = 8 ∧ opField 0x10009 = 9 ∧ opField 0xA = 10 := by
  unfold State.written
  decide +kernel

/-- Pack4PutsTheTopFourBits. -/
theorem witness_pack_sample :
    let s := machine 3 1 (cells 0x04000000 [1, 0, 0, 0, 2, 0, 0, 0, 3, 0, 0, 0])
    s.cfg.wf = true ∧ s.pixels ≤ s.cfg.maxPix ∧ s.written ((List.range s.pixels).map fun i => chanAddr .prev i 0) ∧
      0 < s.gridH ∧ 1 < (s.gridW + 1) / 2 ∧ 2 * 1 + 0 < s.gridW ∧ s.gridW ≤ 2 * 1 + 1 ∧ opField 0x1000B = 11 := by
  unfold State.written
  decide +kernel

/-- RoundingIsToNearestTiesToEven: three bits hold neither 9 nor 11; 9 lies midway between 8 and 10, 11 between 10 and 12. -/
theorem witness_rounding :
    0 < (3 : Nat) ∧ roundMagnitude ⟨3, 0⟩ 9 1 = 8 ∧ roundMagnitude ⟨3, 0⟩ 11 1 = 12 ∧
      ((((8 * 1 : Nat) : Int) - 9).natAbs = (((10 * 1 : Nat) : Int) - 9).natAbs) := by decide

/-- ArithmeticRoundsTheExactResultOnce: the narrowest format it speaks of, and divisors of either sign. -/
theorem witness_arithmetic : 2 ≤ (⟨2, 0⟩ : FFormat).prec ∧ (⟨3⟩ : FVal).units ≠ 0 ∧ (⟨-3⟩ : FVal).units ≠ 0 := by decide

/-- Ties by hand in three bits: 9 lies midway between 8 and 10, 11 between 10 and 12, 4.5 between 4 and 5. -/
theorem test_primitives_round_once :
    fadd ⟨3, 0⟩ ⟨8⟩ ⟨1⟩ = ⟨8⟩ ∧ fadd ⟨3, 0⟩ ⟨10⟩ ⟨1⟩ = ⟨12⟩ ∧ fsub ⟨3, 0⟩ ⟨0⟩ ⟨9⟩ = ⟨-8⟩ ∧
      fmul ⟨3, 0⟩ ⟨-3⟩ ⟨3⟩ = ⟨-8⟩ ∧ fdiv ⟨3, 0⟩ ⟨9⟩ ⟨-2⟩ = ⟨-4⟩ := by decide

/-- `8` and `10` are values of that format. -/
theorem witness_representable : representable ⟨3, 0⟩ 8 ∧ representable ⟨3, 0⟩ 10 := ⟨⟨4, 1, by decide⟩, ⟨5, 1, by decide⟩⟩

/-- ToFIsExact and MatchersAgreeOnIntegers: the narrowest admitted format, the largest integer. -/
theorem witness_exact : 24 ≤ binary32.prec ∧ 24 ≤ binary64.prec ∧ (-(2 ^ 24) : Int).natAbs ≤ 2 ^ 24 := by decide

/-- RoundHazIsNearestTiesAway: zero, and a tie. -/
theorem witness_round_haz : (0 : Int) ≤ 0 ∧ roundHAZ binary32 ⟨5 * 2 ^ 148⟩ = 3 ∧ roundHAZ binary32 ⟨-(5 * 2 ^ 148)⟩ = -3 := by
  decide +kernel

/-- ParametersNeverChange and StepKeepsTheInvariant: a machine that meets the invariant and steps. -/
theorem witness_invariant :
    State.Inv (issuing State.reset 0x105) ∧ (seen (step (issuing State.reset 0x105)) id).isSome :=
  ⟨⟨by decide, by decide, by decide, by decide, .inl (by decide), .inl (by decide)⟩, by decide +kernel⟩

/-- The invariant holds in a fault state after a pack too. -/
theorem witness_invariant_recorded :
    State.Inv { faulted with resWidth := 2, resHeight := 1, resBpp := 3, resLen := 1 } :=
  ⟨by decide, by decide +kernel, by decide +kernel, by decide, .inr (by decide), .inr (by decide)⟩

end Sys2Proof.Tests
end

section
/-! PROOFS. The statements of 00_scope.md: the number type `F`, the parameters, and commands as pure functions of what
they read. -/

namespace Sys2Proof.Machine

/-! ## Rounding to nearest, ties to even (00_scope.md R13) -/

/-- The multiple of `den` that `divNearestEven` picks lies within half of `den`, and is even at exactly half. -/
theorem divNearestEven_within_half (mag : Nat) {den : Nat} (hden : 0 < den) :
    2 * (((divNearestEven mag den * den : Nat) : Int) - mag).natAbs ≤ den ∧
      (2 * (((divNearestEven mag den * den : Nat) : Int) - mag).natAbs = den → divNearestEven mag den % 2 = 0) := by
  have hmod : mag % den < den := Nat.mod_lt _ hden
  have hsplit : mag = mag / den * den + mag % den := by rw [Nat.mul_comm, Nat.div_add_mod]
  have hsucc : (mag / den + 1) * den = mag / den * den + den := Nat.succ_mul _ _
  unfold divNearestEven
  dsimp only
  split_ifs <;> omega

/-- No multiple of `den` is nearer to `mag` than the one picked, since every other is at least `den` away from that
one; and where another is as near, the multiple picked is even. -/
theorem divNearestEven_nearest (mag k : Nat) {den : Nat} (hden : 0 < den) :
    (((divNearestEven mag den * den : Nat) : Int) - mag).natAbs ≤ (((k * den : Nat) : Int) - mag).natAbs ∧
      (k ≠ divNearestEven mag den →
        (((divNearestEven mag den * den : Nat) : Int) - mag).natAbs = (((k * den : Nat) : Int) - mag).natAbs →
        divNearestEven mag den % 2 = 0) := by
  obtain ⟨hhalf, heven⟩ := divNearestEven_within_half mag hden
  generalize divNearestEven mag den = n at *
  rcases Nat.lt_trichotomy k n with hlt | rfl | hlt
  · have hgap : (k + 1) * den ≤ n * den := Nat.mul_le_mul_right _ hlt
    rw [Nat.succ_mul] at hgap
    exact ⟨by omega, fun _ _ => heven (by omega)⟩
  · exact ⟨le_rfl, fun hne => absurd rfl hne⟩
  · have hgap : (n + 1) * den ≤ k * den := Nat.mul_le_mul_right _ hlt
    rw [Nat.succ_mul] at hgap
    exact ⟨by omega, fun _ _ => heven (by omega)⟩

/-- The nearest whole number is the quotient or the next one. -/
theorem divNearestEven_le (mag den : Nat) : divNearestEven mag den ≤ mag / den + 1 := by
  unfold divNearestEven
  dsimp only
  split_ifs <;> omega

/-! ## Values of a format -/

/-- A significand up to `2^prec` inclusive, at any exponent, is a value of the format. -/
theorem representable_mul_two_pow {fmt : FFormat} {m : Nat} (e : Nat) (hprec : 0 < fmt.prec) (hm : m ≤ 2 ^ fmt.prec) :
    representable fmt (m * 2 ^ e) := by
  rcases Nat.lt_or_eq_of_le hm with hlt | rfl
  · exact ⟨m, e, hlt, rfl⟩
  · exact ⟨1, fmt.prec + e, Nat.one_lt_two_pow (by omega), by rw [Nat.pow_add, Nat.one_mul]⟩

/-- An even one is a value with an even significand, where the format has two bits to write it with. -/
theorem evenSignificand_mul_two_pow {fmt : FFormat} {m : Nat} (e : Nat) (hprec : 2 ≤ fmt.prec) (hm : m ≤ 2 ^ fmt.prec)
    (heven : m % 2 = 0) : evenSignificand fmt (m * 2 ^ e) := by
  rcases Nat.lt_or_eq_of_le hm with hlt | rfl
  · exact ⟨m, e, heven, hlt, rfl⟩
  · refine ⟨2, fmt.prec - 1 + e, rfl, lt_self_pow₀ (by decide) (by omega), ?_⟩
    rw [← Nat.pow_succ', Nat.succ_eq_add_one, ← Nat.pow_add]
    congr 1
    omega

/-- Zero is a value of every format. -/
theorem representable_zero (fmt : FFormat) : representable fmt 0 := ⟨0, 0, Nat.two_pow_pos _, rfl⟩

/-! ## One rounding -/

/-- Whole units of the quantum of `q` fit the format's significand. -/
theorem div_quantum_lt (fmt : FFormat) (q : Nat) : q / 2 ^ droppedBits fmt q < 2 ^ fmt.prec := by
  rw [Nat.div_lt_iff_lt_mul (Nat.two_pow_pos _), ← Nat.pow_add]
  calc q < 2 ^ (q.log2 + 1) := Nat.lt_log2_self
    _ ≤ 2 ^ (fmt.prec + droppedBits fmt q) := Nat.pow_le_pow_right (by decide) (by unfold droppedBits; omega)

/-- Where bits are dropped, the significand is full. -/
theorem two_pow_le_of_droppedBits_pos {fmt : FFormat} {q : Nat} (hprec : 0 < fmt.prec) (h : 0 < droppedBits fmt q) :
    2 ^ (fmt.prec + droppedBits fmt q - 1) ≤ q := by
  unfold droppedBits at h ⊢
  have hlog : fmt.prec + (q.log2 + 1 - fmt.prec) - 1 = q.log2 := by omega
  have hq : q ≠ 0 := by
    rintro rfl
    rw [Nat.log2_zero] at h
    omega
  rw [hlog]
  exact Nat.log2_self_le hq

/-- A value of the format is a multiple of the quantum of `q`, or lies below the multiple at or just under `q`. -/
theorem representable_coarse {fmt : FFormat} {z : Nat} (q : Nat) (hprec : 0 < fmt.prec) (hz : representable fmt z) :
    (∃ k, z = k * 2 ^ droppedBits fmt q) ∨ z < q / 2 ^ droppedBits fmt q * 2 ^ droppedBits fmt q := by
  obtain ⟨m, e, hm, rfl⟩ := hz
  generalize hd : droppedBits fmt q = d
  rcases Nat.lt_or_ge e d with he | he
  · right
    have hfull : 2 ^ (fmt.prec - 1) * 2 ^ d ≤ q := by
      rw [← Nat.pow_add, show fmt.prec - 1 + d = fmt.prec + d - 1 by omega, ← hd]
      exact two_pow_le_of_droppedBits_pos hprec (by omega)
    calc m * 2 ^ e < 2 ^ fmt.prec * 2 ^ e := Nat.mul_lt_mul_of_pos_right hm (Nat.two_pow_pos e)
      _ = 2 ^ (fmt.prec + e) := (Nat.pow_add _ _ _).symm
      _ ≤ 2 ^ (fmt.prec - 1 + d) := Nat.pow_le_pow_right (by decide) (by omega)
      _ = 2 ^ (fmt.prec - 1) * 2 ^ d := Nat.pow_add _ _ _
      _ ≤ q / 2 ^ d * 2 ^ d := Nat.mul_le_mul_right _ ((Nat.le_div_iff_mul_le (Nat.two_pow_pos d)).2 hfull)
  · left
    exact ⟨m * 2 ^ (e - d), by rw [Nat.mul_assoc, ← Nat.pow_add, Nat.sub_add_cancel he]⟩

/-- The significand of a rounded magnitude. -/
def roundedSignificand (fmt : FFormat) (mag den : Nat) : Nat :=
  divNearestEven mag (den * 2 ^ droppedBits fmt (mag / den))

theorem roundMagnitude_eq (fmt : FFormat) (mag den : Nat) :
    roundMagnitude fmt mag den = roundedSignificand fmt mag den * 2 ^ droppedBits fmt (mag / den) := rfl

/-- Rounding up can carry into one more bit, and no further. -/
theorem roundedSignificand_le (fmt : FFormat) (mag den : Nat) : roundedSignificand fmt mag den ≤ 2 ^ fmt.prec := by
  refine (divNearestEven_le _ _).trans ?_
  rw [← Nat.div_div_eq_div_mul]
  exact div_quantum_lt fmt _

theorem roundMagnitude_representable (fmt : FFormat) (mag den : Nat) (hprec : 0 < fmt.prec) :
    representable fmt (roundMagnitude fmt mag den) :=
  representable_mul_two_pow _ hprec (roundedSignificand_le fmt mag den)

/-- Nearest, ties to even: against a multiple of the quantum by the rounding itself, and a value that is none is farther
off than the multiple just below `mag / den`. -/
theorem roundMagnitude_nearest {fmt : FFormat} {mag den z : Nat} (hden : 0 < den) (hprec : 0 < fmt.prec)
    (hz : representable fmt z) :
    (((roundMagnitude fmt mag den * den : Nat) : Int) - mag).natAbs ≤ (((z * den : Nat) : Int) - mag).natAbs ∧
      (z ≠ roundMagnitude fmt mag den →
        (((roundMagnitude fmt mag den * den : Nat) : Int) - mag).natAbs = (((z * den : Nat) : Int) - mag).natAbs →
        roundedSignificand fmt mag den % 2 = 0) := by
  rw [roundMagnitude_eq]
  have hnear := fun k => divNearestEven_nearest mag k (Nat.mul_pos hden (Nat.two_pow_pos (droppedBits fmt (mag / den))))
  have hcoarse := representable_coarse (mag / den) hprec hz
  simp only [roundedSignificand]
  generalize droppedBits fmt (mag / den) = d at *
  have hunits (m : Nat) : m * 2 ^ d * den = m * (den * 2 ^ d) := by rw [Nat.mul_assoc, Nat.mul_comm (2 ^ d)]
  rw [hunits]
  rcases hcoarse with ⟨k, rfl⟩ | hlow
  · rw [hunits]
    exact ⟨(hnear k).1, fun hne => (hnear k).2 (mt (congrArg (· * 2 ^ d)) hne)⟩
  · have hbelow : mag / den / 2 ^ d * (den * 2 ^ d) ≤ mag := by
      rw [Nat.div_div_eq_div_mul]
      exact Nat.div_mul_le_self _ _
    have hfar : z * den < mag / den / 2 ^ d * (den * 2 ^ d) := by
      rw [← hunits]
      exact Nat.mul_lt_mul_of_pos_right hlow hden
    have hle := (hnear (mag / den / 2 ^ d)).1
    omega

/-- Settles O46: the rounded value by its quantum, every other value of the format by `representable_coarse`. -/
theorem roundingIsToNearestTiesToEven : Obligations.RoundingIsToNearestTiesToEven := by
  unfold Obligations.RoundingIsToNearestTiesToEven
  intro fmt mag den hden hprec
  refine ⟨roundMagnitude_representable fmt mag den hprec, fun z hz => ?_⟩
  have hsignificand : roundMagnitude fmt mag den / 2 ^ droppedBits fmt (mag / den) = roundedSignificand fmt mag den :=
    Nat.mul_div_cancel _ (Nat.two_pow_pos _)
  rw [hsignificand]
  exact roundMagnitude_nearest hden hprec hz

/-! ## Integers are exact -/

theorem unitOne_pos (fmt : FFormat) : 0 < unitOne fmt := Nat.two_pow_pos _

theorem unitOne_cast (fmt : FFormat) : (unitOne fmt : Int) = 2 ^ fmt.qexp := by simp [unitOne]

/-- Rounding a value of the format changes nothing. -/
theorem roundMagnitude_of_representable {fmt : FFormat} {z : Nat} (hprec : 0 < fmt.prec) (hz : representable fmt z) :
    roundMagnitude fmt z 1 = z := by
  have hle := (roundMagnitude_nearest (mag := z) Nat.one_pos hprec hz).1
  omega

theorem roundF_of_representable {fmt : FFormat} {n : Int} (hprec : 0 < fmt.prec) (hn : representable fmt n.natAbs) :
    roundF fmt n 1 = ⟨n⟩ := by
  unfold roundF
  rw [roundMagnitude_of_representable hprec hn]
  split_ifs <;> congr 1 <;> omega

/-- Settles O47: an integer up to `2^24` is a significand times the units that make 1. -/
theorem toFIsExact : Obligations.ToFIsExact := by
  unfold Obligations.ToFIsExact
  intro fmt n hprec hn
  have hunits : (toF fmt n).units = n * 2 ^ fmt.qexp := by rw [toF, unitOne_cast]
  have hrep : representable fmt (toF fmt n).units.natAbs := by
    rw [hunits, Int.natAbs_mul, Int.natAbs_pow]
    exact representable_mul_two_pow _ (by omega) (hn.trans (Nat.pow_le_pow_right (by decide) hprec))
  exact ⟨hunits, hrep, roundF_of_representable (by omega) hrep⟩

/-! ## `roundHAZ` (00_scope.md R15) -/

/-- The magnitude of `roundHAZ`. -/
def roundHalfUp (u one : Nat) : Nat := if 2 * (u % one) < one then u / one else u / one + 1

theorem roundHAZ_eq (fmt : FFormat) (u : Int) :
    roundHAZ fmt ⟨u⟩ = if u < 0 then -(roundHalfUp u.natAbs (unitOne fmt) : Int)
      else (roundHalfUp u.natAbs (unitOne fmt) : Int) := rfl

/-- The integer `n` with `n - 1/2 <= u / one < n + 1/2`. -/
theorem roundHalfUp_bounds (u : Nat) {one : Nat} (hone : 0 < one) :
    2 * (roundHalfUp u one * one) ≤ 2 * u + one ∧ 2 * u + one < 2 * ((roundHalfUp u one + 1) * one) := by
  have hmod : u % one < one := Nat.mod_lt _ hone
  have hsplit : u = u / one * one + u % one := by rw [Nat.mul_comm, Nat.div_add_mod]
  unfold roundHalfUp
  split_ifs <;> simp only [Nat.add_mul, Nat.one_mul] <;> omega

/-- Settles O48: both signs have one magnitude, and `roundHalfUp_bounds` is the interval. -/
theorem roundHazIsNearestTiesAway : Obligations.RoundHazIsNearestTiesAway := by
  unfold Obligations.RoundHazIsNearestTiesAway
  intro fmt u
  simp only [roundHAZ_eq, Int.natAbs_neg]
  constructor
  · rcases Int.lt_trichotomy u 0 with h | rfl | h
    · rw [if_neg (by omega), if_pos h, Int.neg_neg]
    · have hzero : roundHalfUp 0 (unitOne fmt) = 0 := by simp [roundHalfUp, unitOne_pos]
      simp [hzero]
    · rw [if_pos (by omega), if_neg (by omega)]
  · intro hu
    obtain ⟨v, rfl⟩ := Int.eq_ofNat_of_zero_le hu
    rw [if_neg (by omega), Int.natAbs_natCast]
    obtain ⟨hlow, hhigh⟩ := roundHalfUp_bounds v (unitOne_pos fmt)
    rw [← unitOne_cast, Int.mul_assoc, Int.mul_assoc]
    exact_mod_cast And.intro hlow hhigh

/-! ## The four operations (00_scope.md R13) -/

/-- Rounding once is the same of a value and of its negative. -/
theorem roundedOnce_neg {fmt : FFormat} {num den u : Int} (h : roundedOnce fmt (-num) den ⟨-u⟩) :
    roundedOnce fmt num den ⟨u⟩ := by
  obtain ⟨hrep, hnear⟩ := h
  have hdist (x : Int) : (-x * den - -num).natAbs = (x * den - num).natAbs := by
    rw [← Int.natAbs_neg]
    congr 1
    ring
  refine ⟨by simpa using hrep, fun z hz => ?_⟩
  have hz' := hnear (-z) (by simpa using hz)
  simpa only [hdist, Int.natAbs_neg, ne_eq, Int.neg_inj] using hz'

/-- So it is of a fraction written with a negative denominator. -/
theorem roundedOnce_neg_den {fmt : FFormat} {num den : Int} {r : FVal} (h : roundedOnce fmt (-num) (-den) r) :
    roundedOnce fmt num den r := by
  obtain ⟨hrep, hnear⟩ := h
  have hdist (x : Int) : (x * -den - -num).natAbs = (x * den - num).natAbs := by
    rw [← Int.natAbs_neg]
    congr 1
    ring
  exact ⟨hrep, by simpa only [hdist] using hnear⟩

/-- A magnitude rounded once is nearest among the values of either sign: 0 is nearer than any negative one. -/
theorem roundMagnitude_roundedOnce (fmt : FFormat) (mag : Nat) {den : Nat} (hprec : 2 ≤ fmt.prec) (hden : 0 < den) :
    roundedOnce fmt mag den ⟨roundMagnitude fmt mag den⟩ := by
  refine ⟨roundMagnitude_representable fmt mag den (by omega), fun z hz => ?_⟩
  dsimp only
  rcases Int.lt_or_le z 0 with hneg | hpos
  · obtain ⟨hle, -⟩ := roundMagnitude_nearest (mag := mag) hden (by omega) (representable_zero fmt)
    have hmul : z * den < 0 := Int.mul_neg_of_neg_of_pos hneg (by omega)
    rw [← Int.natCast_mul]
    omega
  · obtain ⟨y, rfl⟩ := Int.eq_ofNat_of_zero_le hpos
    obtain ⟨hle, heven⟩ := roundMagnitude_nearest (mag := mag) hden (by omega) hz
    rw [← Int.natCast_mul, ← Int.natCast_mul]
    refine ⟨hle, fun hne heq => ?_⟩
    exact evenSignificand_mul_two_pow _ hprec (roundedSignificand_le fmt mag den) (heven (by simpa using hne) heq)

/-- `roundF` rounds the exact value once, whatever its sign. -/
theorem roundF_roundedOnce (fmt : FFormat) (num : Int) {den : Nat} (hprec : 2 ≤ fmt.prec) (hden : 0 < den) :
    roundedOnce fmt num den (roundF fmt num den) := by
  have hmag := roundMagnitude_roundedOnce fmt num.natAbs hprec hden
  unfold roundF
  split_ifs with hneg
  · refine roundedOnce_neg ?_
    rwa [Int.neg_neg, ← Int.ofNat_natAbs_of_nonpos hneg.le]
  · rwa [Int.natAbs_of_nonneg (by omega)] at hmag

/-- Settles O52: each operation is one `roundF` of its exact result. -/
theorem arithmeticRoundsTheExactResultOnce : Obligations.ArithmeticRoundsTheExactResultOnce := by
  unfold Obligations.ArithmeticRoundsTheExactResultOnce
  intro fmt a b hprec
  rw [← unitOne_cast]
  refine ⟨roundF_roundedOnce fmt _ hprec Nat.one_pos, roundF_roundedOnce fmt _ hprec Nat.one_pos,
    roundF_roundedOnce fmt _ hprec (unitOne_pos fmt), fun hb => ?_, by simp [fgt], by simp [flt]⟩
  have hquot := roundF_roundedOnce fmt (a.units * unitOne fmt * b.units.sign) hprec (Int.natAbs_pos.2 hb)
  rw [fdiv]
  rcases Int.lt_or_gt_of_ne hb with hneg | hpos
  · rw [Int.sign_eq_neg_one_of_neg hneg, Int.mul_neg_one] at hquot ⊢
    rw [Int.ofNat_natAbs_of_nonpos hneg.le] at hquot
    exact roundedOnce_neg_den hquot
  · rw [Int.sign_eq_one_of_pos hpos, Int.mul_one] at hquot ⊢
    rwa [Int.natAbs_of_nonneg hpos.le] at hquot

/-! ## Parameters (00_scope.md R10) -/

/-- No command changes an implementation parameter. -/
theorem exec_keeps_cfg {i : Instr} {s t : State} (h : exec i s = .next t) : t.cfg = s.cfg := by
  have hkind := exec_kind i s
  cases hi : commandKind i <;> simp only [hi, h] at hkind
  case nop => cases hkind; rfl
  case reserved => cases hkind; rfl
  case tone =>
    obtain ⟨-, src, -, ht⟩ := State.withInput_next.1 hkind.symm
    cases ht; rfl
  case gray =>
    rcases hkind with ⟨thr, hop⟩ | ⟨thr, hop⟩ | ⟨kernel, thr, hop⟩ <;>
      (obtain ⟨-, gray, -, rfl⟩ := State.quantizeGray_next.1 hop.symm; rfl)
  case levels levels =>
    obtain ⟨kernel, hop⟩ := hkind
    unfold State.qedn at hop
    split_ifs at hop
    · cases hop; rfl
    · obtain ⟨-, gray, -, rfl⟩ := State.quantizeGray_next.1 hop.symm; rfl
  case palette =>
    rcases hkind with ⟨preinv, hop⟩ | ⟨kernel, preinv, hop⟩ <;>
      (obtain ⟨-, src, pal, -, -, rfl⟩ := State.quantizePalette_next.1 hop.symm; rfl)
  case packIndex =>
    rcases hkind with ⟨-, inv, hop⟩ | ⟨-, hop⟩ | ⟨-, hop⟩ <;>
      (obtain ⟨-, idx, -, ht⟩ := State.withInput_next.1 hop.symm; cases ht; rfl)
  case packSample =>
    obtain ⟨inv, hop⟩ := hkind
    obtain ⟨-, samples, -, ht⟩ := State.withInput_next.1 hop.symm
    cases ht; rfl

/-- No host write that is no command does. -/
theorem State.hostStore_cfg (s : State) (a : Nat) (w : AccessWidth) (v : Word) : (s.hostStore a w v).cfg = s.cfg := by
  rcases s.hostStore_cases a w v with ⟨r, -, h⟩ | ⟨-, h⟩ | ⟨-, h⟩ <;> rw [h]
  · obtain ⟨wd, ht, m, st, hreg, -⟩ := s.writeReg_eq r v
    rw [hreg]; rfl
  · rfl
  · rfl

/-- Settles O49, by the kinds of step. -/
theorem parametersNeverChange : Obligations.ParametersNeverChange := by
  unfold Obligations.ParametersNeverChange
  intro s t h
  rcases step_cases h with ⟨-, rfl⟩ | ⟨op, rest, -, hop⟩
  · rfl
  rcases hop with ⟨a, w, -, hread⟩ | ⟨c, -, -, rfl⟩ | ⟨c, u, -, -, hexec, rfl⟩ | ⟨a, w, v, -, -, rfl⟩ | ⟨-, rfl⟩
  · obtain ⟨r, rfl⟩ := State.hostRead_next hread
    rfl
  · rfl
  · simpa using exec_keeps_cfg hexec
  · exact State.hostStore_cfg _ a w v
  · rfl

/-! ## What a command reads (20_memory.md R77) -/

theorem gather_congr {α : Type} {elem elem' : Nat → Option α} {is : List Nat} (h : ∀ i ∈ is, elem' i = elem i) :
    gather elem' is = gather elem is := by
  induction is with
  | nil => rfl
  | cons i is ih =>
    obtain ⟨hi, his⟩ := List.forall_mem_cons.1 h
    simp only [gather, hi, ih his]

theorem mem_elemAddrs {w : Window} {n a : Nat} : a ∈ elemAddrs w n ↔ ∃ i < n, a = elemAddr w i := by
  simp [elemAddrs, eq_comm]

theorem mem_chanAddrs {w : Window} {n c a : Nat} : a ∈ chanAddrs w n c ↔ ∃ i < n, ∃ k < c, a = chanAddr w i k := by
  simp [chanAddrs, eq_comm]

theorem Memory.rgbAt_congr {m m' : Memory} {w : Window} {i : Nat}
    (h : ∀ c < 3, m'.read (chanAddr w i c) = m.read (chanAddr w i c)) : m'.rgbAt w i = m.rgbAt w i := by
  simp only [Memory.rgbAt, h 0 (by decide), h 1 (by decide), h 2 (by decide)]

theorem Memory.rgbaAt_congr {m m' : Memory} {w : Window} {i : Nat}
    (h : ∀ c < 4, m'.read (chanAddr w i c) = m.read (chanAddr w i c)) : m'.rgbaAt w i = m.rgbaAt w i := by
  simp only [Memory.rgbaAt, Memory.rgbAt_congr fun c hc => h c (Nat.lt_succ_of_lt hc), h 3 (by decide)]

section
variable {m m' : Memory} {n : Nat}

theorem Memory.grayGrid_congr (h : ∀ a ∈ elemAddrs .gray n, m'.read a = m.read a) : m'.grayGrid n = m.grayGrid n :=
  gather_congr fun i hi => h _ (mem_elemAddrs.2 ⟨i, List.mem_range.1 hi, rfl⟩)

theorem Memory.idxGrid_congr (h : ∀ a ∈ elemAddrs .idx n, m'.read a = m.read a) : m'.idxGrid n = m.idxGrid n :=
  gather_congr fun i hi => h _ (mem_elemAddrs.2 ⟨i, List.mem_range.1 hi, rfl⟩)

theorem Memory.prevRedGrid_congr (h : ∀ a ∈ (List.range n).map fun i => chanAddr .prev i 0, m'.read a = m.read a) :
    m'.prevRedGrid n = m.prevRedGrid n :=
  gather_congr fun _ hi => h _ (List.mem_map_of_mem hi)

theorem Memory.srcRgbGrid_congr (h : ∀ a ∈ chanAddrs .src n 3, m'.read a = m.read a) :
    m'.srcRgbGrid n = m.srcRgbGrid n :=
  gather_congr fun i hi => Memory.rgbAt_congr fun c hc => h _ (mem_chanAddrs.2 ⟨i, List.mem_range.1 hi, c, hc, rfl⟩)

theorem Memory.srcGrid_congr (h : ∀ a ∈ chanAddrs .src n 4, m'.read a = m.read a) : m'.srcGrid n = m.srcGrid n :=
  gather_congr fun i hi => Memory.rgbaAt_congr fun c hc => h _ (mem_chanAddrs.2 ⟨i, List.mem_range.1 hi, c, hc, rfl⟩)

theorem Memory.palette_congr {npal : Nat}
    (h : ∀ a ∈ if n = 0 then [] else chanAddrs .pal npal 3, m'.read a = m.read a) :
    m'.palette npal n = m.palette npal n := by
  unfold Memory.palette
  split_ifs at h ⊢
  · rfl
  · exact gather_congr fun j hj =>
      Memory.rgbAt_congr fun c hc => h _ (mem_chanAddrs.2 ⟨j, List.mem_range.1 hj, c, hc, rfl⟩)

end

/-! ## What a command writes -/

/-- What a run of bytes leaves inside it does not depend on what was there. -/
theorem Memory.read_writeBytes_congr (m m' : Memory) {a x : Nat} {bs : List Byte} (hlow : a ≤ x)
    (hhigh : x < a + bs.length) : (m'.writeBytes a bs).read x = (m.writeBytes a bs).read x := by
  rw [Memory.read_writeBytes, Memory.read_writeBytes, if_pos ⟨hlow, hhigh⟩, if_pos ⟨hlow, hhigh⟩]

/-- A run of bytes from the first element of a one-byte memory, read there. -/
theorem Memory.read_writeElems_congr (m m' : Memory) {w : Window} {n x : Nat} {bs : List Byte} (hlen : bs.length = n)
    (hx : x ∈ elemAddrs w n) :
    (m'.writeBytes (elemAddr w 0) bs).read x = (m.writeBytes (elemAddr w 0) bs).read x := by
  obtain ⟨i, hi, rfl⟩ := mem_elemAddrs.1 hx
  exact Memory.read_writeBytes_congr m m' (by simp [elemAddr]) (by simp only [elemAddr]; omega)

/-- The byte at `x` is one of the five of pixel `i`. -/
def pixelHolds (i x : Nat) : Prop := x = elemAddr .idx i ∨ ∃ c < 4, x = chanAddr .prev i c

theorem mem_pixelAddrs {n x : Nat} : x ∈ pixelAddrs n ↔ ∃ i < n, pixelHolds i x := by
  simp only [pixelAddrs, List.mem_append, mem_elemAddrs, mem_chanAddrs, pixelHolds, and_or_left, exists_or]

/-- An emitted pixel's bytes do not depend on what was there. -/
theorem Memory.read_emit_congr_inside (m m' : Memory) {i x : Nat} (o : PixelOut) (hx : pixelHolds i x) :
    (m'.emit i o).read x = (m.emit i o).read x := by
  rw [Memory.read_emit, Memory.read_emit]
  rcases hx with rfl | ⟨c, hc, rfl⟩
  · simp
  · interval_cases c <;> simp

/-- The bytes of a pixel a pass emits depend on the pass, and on nothing that was there. -/
theorem Memory.read_emitAll_congr {outs : List (Nat × PixelOut)} {x : Nat} (m m' : Memory)
    (hx : m'.read x = m.read x ∨ ∃ i ∈ outs.map Prod.fst, pixelHolds i x) :
    (m'.emitAll outs).read x = (m.emitAll outs).read x := by
  induction outs generalizing m m' with
  | nil => simpa using hx
  | cons p outs ih =>
    rw [Memory.emitAll_cons, Memory.emitAll_cons]
    refine ih _ _ ?_
    rcases hx with hx | ⟨i, hi, hx⟩
    · left
      simp only [Memory.read_emit, hx]
    · rcases List.mem_cons.1 hi with rfl | hi
      · exact .inl (Memory.read_emit_congr_inside m m' p.2 hx)
      · exact .inr ⟨i, hi, hx⟩

/-! ## Every pixel is emitted -/

/-- The row and the column of a pixel of the grid (20_memory.md R62). -/
theorem rowColumn_of_index {w h i : Nat} (hi : i < w * h) : i / w < h ∧ i % w < w ∧ i / w * w + i % w = i := by
  have hw : 0 < w := Nat.pos_of_mul_pos_right (Nat.zero_lt_of_lt hi)
  exact ⟨Nat.div_lt_of_lt_mul hi, Nat.mod_lt _ hw, by rw [Nat.mul_comm, Nat.div_add_mod]⟩

theorem mem_scanRaster_index {w h i : Nat} (hi : i < w * h) : i ∈ (scanRaster w h).map (ScanPos.index w) := by
  obtain ⟨hy, hx, heq⟩ := rowColumn_of_index hi
  refine List.mem_map.2 ⟨⟨i % w, i / w, 1⟩, ?_, heq⟩
  simp [scanRaster, rowForward, hy, hx]

theorem mem_scanSerpentine_index {w h i : Nat} (hi : i < w * h) :
    i ∈ (scanSerpentine w h).map (ScanPos.index w) := by
  obtain ⟨hy, hx, heq⟩ := rowColumn_of_index hi
  refine List.mem_map.2 ⟨⟨i % w, i / w, if i / w % 2 = 0 then 1 else -1⟩, ?_, heq⟩
  refine List.mem_flatMap.2 ⟨i / w, List.mem_range.2 hy, ?_⟩
  split_ifs <;> simp [rowForward, rowBackward, hx]

/-- A pass emits every pixel of a grid of `n`. -/
def coversGrid (n : Nat) (outs : List (Nat × PixelOut)) : Prop := ∀ i < n, i ∈ outs.map Prod.fst

theorem pixelwise_covers (light : Nat → Byte → Bool) {n : Nat} {gray : List Byte} (hlen : gray.length = n) :
    coversGrid n (pixelwise light gray) := by
  intro i hi
  rwa [pixelwise_indices, List.mem_range, hlen]

theorem binaryDiffusion_covers (cfg : Config) (kernel : KernelId) (thr : Byte) (w h : Nat) (gray : List Byte) :
    coversGrid (w * h) (binaryDiffusion cfg kernel thr w h gray) := by
  intro i hi
  rw [binaryDiffusion, grayPass_indices]
  exact mem_scanRaster_index hi

theorem levelDiffusion_covers (cfg : Config) (kernel : KernelId) (levels : Byte) (w h : Nat) (gray : List Byte) :
    coversGrid (w * h) (levelDiffusion cfg kernel levels w h gray) := by
  intro i hi
  rw [levelDiffusion, grayPass_indices]
  exact mem_scanSerpentine_index hi

theorem plainMatch_covers (preinv : Bool) {n : Nat} {src : List Rgba} (pal : List Rgb) (hlen : src.length = n) :
    coversGrid n (plainMatch preinv src pal) := by
  intro i hi
  rwa [plainMatch_indices, List.mem_range, hlen]

theorem colorDiffusion_covers (cfg : Config) (kernel : KernelId) (preinv : Bool) (w h : Nat) (src : List Rgba)
    (pal : List Rgb) : coversGrid (w * h) (colorDiffusion cfg kernel preinv w h src pal) := by
  intro i hi
  rw [colorDiffusion, colorPass_indices]
  exact mem_scanSerpentine_index hi

/-! ## Two machines that agree on what a command reads (00_scope.md R8) -/

/-- Two machines with the same parameters and the same grid shape, and the same bytes at the addresses `reads`. -/
structure State.SameInputs (reads : List Nat) (s s' : State) : Prop where
  cfg : s'.cfg = s.cfg
  width : s'.width = s.width
  height : s'.height = s.height
  mem : ∀ a ∈ reads, s'.mem.read a = s.mem.read a

section
variable {reads : List Nat} {s s' : State} (hs : s.SameInputs reads s')
include hs

theorem State.SameInputs.gridW_eq : s'.gridW = s.gridW := congrArg BitVec.toNat hs.width

theorem State.SameInputs.gridH_eq : s'.gridH = s.gridH := congrArg BitVec.toNat hs.height

theorem State.SameInputs.pixels_eq : s'.pixels = s.pixels := by
  rw [State.pixels, hs.gridW_eq, hs.gridH_eq, State.pixels]

theorem State.SameInputs.gridFits_eq : s'.gridFits = s.gridFits := by
  rw [State.gridFits, hs.pixels_eq, hs.cfg, State.gridFits]

end

section
variable {α : Type} {reads : List Nat} {s s' t : State}

/-- What goes on with its inputs on one machine goes on with the same ones on the other. -/
theorem State.SameInputs.withInput_next (hs : s.SameInputs reads s') {input input' : Option α} (hin : input' = input)
    {run : α → Result} (h : s.withInput input run = .next t) :
    ∃ x, input = some x ∧ run x = .next t ∧ ∀ run' : α → Result, s'.withInput input' run' = run' x := by
  obtain ⟨hfits, x, hx, hrun⟩ := State.withInput_next.1 h
  refine ⟨x, hx, hrun, fun run' => ?_⟩
  rw [hin, hx, State.withInput_some (hs.gridFits_eq.trans hfits)]

/-- `TONE` writes the same samples. -/
theorem State.SameInputs.execTone_next (hs : s.SameInputs (chanAddrs .src s.pixels 3) s') (h : execTone s = .next t) :
    ∃ t', execTone s' = .next t' ∧ ∀ a ∈ elemAddrs .gray s.pixels, t'.mem.read a = t.mem.read a := by
  have hin : s'.mem.srcRgbGrid s'.pixels = s.mem.srcRgbGrid s.pixels :=
    by
    rw [hs.pixels_eq, Memory.srcRgbGrid_congr hs.mem]
  obtain ⟨src, hsrc, hrun, hnext⟩ := hs.withInput_next hin h
  cases hrun
  obtain ⟨hlen, -⟩ := gather_range.1 hsrc
  refine ⟨_, hnext _, fun a ha => ?_⟩
  rw [hs.cfg]
  exact Memory.read_writeElems_congr _ _ (by simp [hlen]) ha

/-- A gray quantizer emits the same pixels, whatever its pass makes of the parameters and the grid shape. -/
theorem State.SameInputs.quantizeGray_next (hs : s.SameInputs (elemAddrs .gray s.pixels) s')
    (pass : Config → Nat → Nat → List Byte → List (Nat × PixelOut))
    (hcov : ∀ gray, gray.length = s.pixels → coversGrid s.pixels (pass s.cfg s.gridW s.gridH gray))
    (h : s.quantizeGray (pass s.cfg s.gridW s.gridH) = .next t) :
    ∃ t', s'.quantizeGray (pass s'.cfg s'.gridW s'.gridH) = .next t' ∧
      ∀ a ∈ pixelAddrs s.pixels, t'.mem.read a = t.mem.read a := by
  have hin : s'.mem.grayGrid s'.pixels = s.mem.grayGrid s.pixels := by
    rw [hs.pixels_eq, Memory.grayGrid_congr hs.mem]
  obtain ⟨gray, hgray, hrun, hnext⟩ := hs.withInput_next hin h
  cases hrun
  obtain ⟨hlen, -⟩ := gather_range.1 hgray
  refine ⟨_, hnext _, fun a ha => ?_⟩
  obtain ⟨i, hi, ha⟩ := mem_pixelAddrs.1 ha
  rw [hs.cfg, hs.gridW_eq, hs.gridH_eq]
  exact Memory.read_emitAll_congr _ _ (.inr ⟨i, hcov gray hlen i hi, ha⟩)

/-- So does a palette quantizer. -/
theorem State.SameInputs.quantizePalette_next {npal : Nat}
    (hs : s.SameInputs ((CommandKind.palette npal).reads s.pixels) s')
    (pass : Config → Nat → Nat → List Rgba → List Rgb → List (Nat × PixelOut))
    (hcov : ∀ src pal, src.length = s.pixels → coversGrid s.pixels (pass s.cfg s.gridW s.gridH src pal))
    (h : s.quantizePalette npal (pass s.cfg s.gridW s.gridH) = .next t) :
    ∃ t', s'.quantizePalette npal (pass s'.cfg s'.gridW s'.gridH) = .next t' ∧
      ∀ a ∈ pixelAddrs s.pixels, t'.mem.read a = t.mem.read a := by
  obtain ⟨hmemSrc, hmemPal⟩ := List.forall_mem_append.1 hs.mem
  obtain ⟨hfits, src, pal, hsrc, hpal, rfl⟩ := State.quantizePalette_next.1 h
  obtain ⟨hlen, -⟩ := gather_range.1 hsrc
  refine ⟨_, State.quantizePalette_next.2 ⟨hs.gridFits_eq.trans hfits, src, pal, ?_, ?_, rfl⟩, fun a ha => ?_⟩
  · rw [hs.pixels_eq, Memory.srcGrid_congr hmemSrc, hsrc]
  · rw [hs.pixels_eq, Memory.palette_congr hmemPal, hpal]
  · obtain ⟨i, hi, ha⟩ := mem_pixelAddrs.1 ha
    rw [hs.cfg, hs.gridW_eq, hs.gridH_eq]
    exact Memory.read_emitAll_congr _ _ (.inr ⟨i, hcov src pal hlen i hi, ha⟩)

/-- A packer writes the same bytes and the same metadata, `MODEID` apart. -/
theorem State.SameInputs.storePacked_next (hs : s.SameInputs reads s') {n : BitVec 3} {input input' : Option α}
    (hin : input' = input) (bpr : Nat → Nat) (pack : Nat → Nat → α → List Byte)
    (hlen : ∀ w h x, (pack w h x).length = bpr w * h)
    (h : (s.withInput input fun x => .next (s.storePacked n (bpr s.gridW) (pack s.gridW s.gridH x))) = .next t) :
    ∃ t', (s'.withInput input' fun x => .next (s'.storePacked n (bpr s'.gridW) (pack s'.gridW s'.gridH x))) = .next t' ∧
      (∀ a ∈ elemAddrs .pbuf (bpr s.gridW * s.gridH), t'.mem.read a = t.mem.read a) ∧
      t'.resWidth = t.resWidth ∧ t'.resHeight = t.resHeight ∧ t'.resBpp = t.resBpp ∧ t'.resLen = t.resLen ∧
      (s'.modeId = s.modeId → t'.resModeId = t.resModeId) := by
  obtain ⟨x, -, hrun, hnext⟩ := hs.withInput_next hin h
  cases hrun
  refine ⟨_, hnext _, fun a ha => ?_, hs.width, hs.height, rfl, ?_, id⟩
  · rw [hs.gridW_eq, hs.gridH_eq]
    exact Memory.read_writeElems_congr _ _ (hlen _ _ _) ha
  · simp only [State.storePacked_resLen, hs.gridW_eq, hs.gridH_eq]

end

/-! ## The operation a command is, on every machine -/

/-- `exec_kind` for all machines at once: the threshold, kernel or flag of a command is the same on each. -/
theorem exec_operation (i : Instr) :
    match commandKind i with
    | .nop => ∀ s, exec i s = .next s
    | .reserved => ∀ s, exec i s = .next s.setIllop
    | .tone => ∀ s, exec i s = execTone s
    | .gray _ => (∃ thr, ∀ s, exec i s = execQthr thr s) ∨ (∃ thr, ∀ s, exec i s = execQord thr s) ∨
        ∃ kernel thr, ∀ s, exec i s = s.qedb kernel thr
    | .levels levels => ∃ kernel, ∀ s, exec i s = s.qedn kernel levels
    | .palette npal => (∃ preinv, ∀ s, exec i s = execQpalNone npal preinv s) ∨
        ∃ kernel preinv, ∀ s, exec i s = s.qpal kernel npal preinv
    | .packIndex bpp => (bpp = 1 ∧ ∃ inv, ∀ s, exec i s = execPack1 inv s) ∨ (bpp = 2 ∧ ∀ s, exec i s = execPack2 s) ∨
        (bpp = 3 ∧ ∀ s, exec i s = execPack3 s)
    | .packSample => ∃ inv, ∀ s, exec i s = execPack4 inv s := by
  cases i with
  | nop | tone | reservedOp7 | reservedOp12 | reservedOp13 | reservedOp14 | reservedOp15 => exact fun _ => rfl
  | qthr thr => exact .inl ⟨thr, fun _ => rfl⟩
  | qord thr => exact .inr (.inl ⟨thr, fun _ => rfl⟩)
  | qedbJjn thr => exact .inr (.inr ⟨.jarvis, thr, fun _ => rfl⟩)
  | qedbFs thr | qedbK2 thr | qedbK3 thr | qedbK4 thr | qedbK5 thr | qedbK6 thr | qedbK7 thr | qedbK8 thr
  | qedbK9 thr | qedbK10 thr | qedbK11 thr | qedbK12 thr | qedbK13 thr | qedbK14 thr | qedbK15 thr =>
    exact .inr (.inr ⟨.floydSteinberg, thr, fun _ => rfl⟩)
  | qednJjn => exact ⟨.jarvis, fun _ => rfl⟩
  | qednFs | qednK2 | qednK3 | qednK4 | qednK5 | qednK6 | qednK7 | qednK8 | qednK9 | qednK10 | qednK11 | qednK12
  | qednK13 | qednK14 | qednK15 => exact ⟨.floydSteinberg, fun _ => rfl⟩
  | qpalNone npal preinv => exact .inl ⟨preinv, fun _ => rfl⟩
  | qpalFfs npal preinv => exact .inr ⟨.falseFloydSteinberg, preinv, fun _ => rfl⟩
  | qpalJarvis npal preinv => exact .inr ⟨.jarvis, preinv, fun _ => rfl⟩
  | qpalStucki npal preinv => exact .inr ⟨.stucki, preinv, fun _ => rfl⟩
  | qpalAtkinson npal preinv => exact .inr ⟨.atkinson, preinv, fun _ => rfl⟩
  | qpalBurkes npal preinv => exact .inr ⟨.burkes, preinv, fun _ => rfl⟩
  | qpalSierra npal preinv => exact .inr ⟨.sierra, preinv, fun _ => rfl⟩
  | qpalTwosierra npal preinv => exact .inr ⟨.twoSierra, preinv, fun _ => rfl⟩
  | qpalSierralite npal preinv => exact .inr ⟨.sierraLite, preinv, fun _ => rfl⟩
  | qpalFs npal preinv | qpalK10 npal preinv | qpalK11 npal preinv | qpalK12 npal preinv | qpalK13 npal preinv
  | qpalK14 npal preinv | qpalK15 npal preinv => exact .inr ⟨.floydSteinberg, preinv, fun _ => rfl⟩
  | pack1 inv => exact .inl ⟨rfl, inv, fun _ => rfl⟩
  | pack2 => exact .inr (.inl ⟨rfl, fun _ => rfl⟩)
  | pack3 => exact .inr (.inr ⟨rfl, fun _ => rfl⟩)
  | pack4 inv => exact ⟨inv, fun _ => rfl⟩

/-! ## Noninterference -/

/-- Settles O21: for each kind, the shared operation behind it runs alike on both machines. -/
theorem commandsArePureFunctionsOfTheirInputs : Obligations.CommandsArePureFunctionsOfTheirInputs := by
  unfold Obligations.CommandsArePureFunctionsOfTheirInputs
  intro i s s' t hcfg hwidth hheight hmem h
  have hs : s.SameInputs ((commandKind i).reads s.pixels) s' := ⟨hcfg, hwidth, hheight, hmem⟩
  have hop := exec_operation i
  cases hk : commandKind i <;> simp only [hk] at hop hs ⊢
  case nop => exact ⟨s', hop s', by simp [CommandKind.writes], trivial⟩
  case reserved =>
    rw [hop] at h
    cases h
    exact ⟨_, hop s', by simp [CommandKind.writes], rfl⟩
  case tone =>
    rw [hop] at h
    obtain ⟨t', ht', hread⟩ := hs.execTone_next h
    exact ⟨t', (hop s').trans ht', hread, trivial⟩
  case gray =>
    have hpixels : ∃ t', exec i s' = .next t' ∧ ∀ a ∈ pixelAddrs s.pixels, t'.mem.read a = t.mem.read a := by
      rcases hop with ⟨thr, hop⟩ | ⟨thr, hop⟩ | ⟨kernel, thr, hop⟩ <;> rw [hop] at h ⊢
      · exact hs.quantizeGray_next (fun _ _ _ => pixelwise fun _ v => thresholdLight thr v)
          (fun _ => pixelwise_covers _) h
      · exact hs.quantizeGray_next (fun cfg w _ => pixelwise (orderedLight cfg w thr))
          (fun _ => pixelwise_covers _) h
      · exact hs.quantizeGray_next (fun cfg => binaryDiffusion cfg kernel thr)
          (fun gray _ => binaryDiffusion_covers _ _ _ _ _ gray) h
    obtain ⟨t', ht', hread⟩ := hpixels
    exact ⟨t', ht', hread, trivial⟩
  case levels levels =>
    obtain ⟨kernel, hop⟩ := hop
    rw [hop, State.qedn] at h
    simp only [hop, State.qedn]
    by_cases hlevels : levels.toNat < 2
    · rw [if_pos hlevels] at h
      cases h
      simp only [if_pos hlevels]
      exact ⟨_, rfl, by simp [CommandKind.writes, hlevels], fun _ => ⟨rfl, rfl, id⟩⟩
    · simp only [CommandKind.reads, if_neg hlevels] at h hs
      simp only [CommandKind.writes, if_neg hlevels]
      obtain ⟨t', ht', hread⟩ := hs.quantizeGray_next (fun cfg => levelDiffusion cfg kernel levels)
        (fun gray _ => levelDiffusion_covers _ _ _ _ _ gray) h
      exact ⟨t', ht', hread, fun hlt => absurd hlt hlevels⟩
  case palette npal =>
    have hpixels : ∃ t', exec i s' = .next t' ∧ ∀ a ∈ pixelAddrs s.pixels, t'.mem.read a = t.mem.read a := by
      rcases hop with ⟨preinv, hop⟩ | ⟨kernel, preinv, hop⟩ <;> rw [hop] at h ⊢
      · exact hs.quantizePalette_next (fun _ _ _ => plainMatch preinv) (fun _ pal => plainMatch_covers _ pal) h
      · exact hs.quantizePalette_next (fun cfg => colorDiffusion cfg kernel preinv)
          (fun src pal _ => colorDiffusion_covers _ _ _ _ _ src pal) h
    obtain ⟨t', ht', hread⟩ := hpixels
    exact ⟨t', ht', hread, trivial⟩
  case packIndex =>
    have hin : s'.mem.idxGrid s'.pixels = s.mem.idxGrid s.pixels := by
      rw [hs.pixels_eq, Memory.idxGrid_congr hs.mem]
    rcases hop with ⟨rfl, inv, hop⟩ | ⟨rfl, hop⟩ | ⟨rfl, hop⟩ <;> rw [hop] at h ⊢
    · exact hs.storePacked_next hin bpr1 (pack1 inv) (pack1_length inv) h
    · exact hs.storePacked_next hin bpr2 pack2 pack2_length h
    · exact hs.storePacked_next hin bpr3 pack3 pack3_length h
  case packSample =>
    obtain ⟨inv, hop⟩ := hop
    have hin : s'.mem.prevRedGrid s'.pixels = s.mem.prevRedGrid s.pixels :=
      by
      rw [hs.pixels_eq, Memory.prevRedGrid_congr hs.mem]
    rw [hop] at h ⊢
    exact hs.storePacked_next hin bpr4 (pack4 inv) (pack4_length inv) h

end Sys2Proof.Machine
end

section
/-! PROOFS. The statements of 10_state.md: the registers as the host reads and writes them, the `CMD` write, reset,
which state a command writes, and the invariant of the machine. -/

namespace Sys2Proof.Machine

/-! ## One transaction -/

/-- The oldest transaction is served. -/
theorem step_of_pending {s : State} {op : HostOp} {rest : List HostOp} (h : s.pending = op :: rest) :
    step s = ({ s with pending := rest } : State).serve op := by
  simp only [step, State.serveNext, h]

section
variable {s : State} {c : Word} {rest : List HostOp} (h : s.pending = .write 0x10 .word c :: rest)
include h

/-- In the fault state a 32-bit write of `CMD` completes and does nothing. -/
theorem step_cmdWrite_of_fault (hfault : s.status.fault = true) :
    step s = .next { s with pending := rest, response := .writeDone } :=
  (step_of_pending h).trans (if_pos hfault)

/-- Outside it the command of the word is executed, with the word on the bus. -/
theorem step_cmdWrite_of_no_fault (hfault : s.status.fault = false) :
    step s = finishCommand (exec (fetchCommand c) { s with pending := rest, busData := c }) :=
  (step_of_pending h).trans (if_neg (by simp [hfault]))

end

/-- Settles O5: `finishCommand` passes each of the command's three outcomes on. -/
theorem cmdWriteRunsTheDecodedCommand : Obligations.CmdWriteRunsTheDecodedCommand := by
  unfold Obligations.CmdWriteRunsTheDecodedCommand
  intro s c rest i hpending hdecode
  have hi : fetchCommand c = i := by simp only [fetchCommand, hdecode]
  refine ⟨step_cmdWrite_of_fault hpending, fun hfault => ?_, rfl⟩
  rw [step_cmdWrite_of_no_fault hpending hfault, hi]
  exact ⟨fun t ht => congrArg finishCommand ht, fun f hf => congrArg finishCommand hf,
    fun r hr => congrArg finishCommand hr⟩

/-- Settles O12: a reset is served as `afterReset`, whose every field is the one stated. -/
theorem resetRestoresRegistersKeepsMemories : Obligations.ResetRestoresRegistersKeepsMemories := by
  unfold Obligations.ResetRestoresRegistersKeepsMemories
  intro s rest hpending
  exact ⟨step_of_pending hpending, rfl⟩

/-! ## Registers on the host port (10_state.md R22, R23) -/

/-- Every register lies at an aligned offset below the memories. -/
theorem regAt_bounds {a : Nat} {r : Reg} (h : regAt a = some r) : a % 4 = 0 ∧ a < 0x100 := by
  unfold regAt at h
  split at h <;> first | exact ⟨rfl, by decide⟩ | cases h

theorem target_word_of_regAt {a : Nat} {r : Reg} (maxPix : Nat) (h : regAt a = some r) :
    target maxPix a .word = .reg r := by
  obtain ⟨haligned, hlow⟩ := regAt_bounds h
  simp [target, AccessWidth.bytes, haligned, hlow, h]

/-- The register file does not see what the host has yet to issue. -/
theorem State.readReg_withPending (s : State) (rest : List HostOp) (r : Reg) :
    ({ s with pending := rest } : State).readReg r = s.readReg r := by
  cases r <;> rfl

theorem State.writeReg_withPending (s : State) (rest : List HostOp) (r : Reg) (v : Word) :
    ({ s with pending := rest } : State).writeReg r v = { s.writeReg r v with pending := rest } := by
  cases r <;> rfl

section
variable {s : State} {a : Nat} {r : Reg} {rest : List HostOp} (hreg : regAt a = some r)
include hreg

/-- A 32-bit read at a register's offset answers the register. -/
theorem step_readReg (h : s.pending = .read a .word :: rest) :
    step s = .next { s with pending := rest, response := .readData (s.readReg r) } := by
  rw [step_of_pending h, State.serve, State.hostRead, target_word_of_regAt _ hreg]
  simp only [State.readReg_withPending, State.respond]

/-- A 32-bit write at the offset of a register other than `CMD` writes the register. -/
theorem step_writeReg {v : Word} (hcmd : r ≠ .cmd) (h : s.pending = .write a .word v :: rest) :
    step s = .next { s.writeReg r v with pending := rest, response := .writeDone } := by
  have hne : a ≠ cmdOffset := by
    rintro rfl
    exact hcmd (Option.some.inj hreg).symm
  rw [step_of_pending h, State.serve, if_neg (by simp [isCmdWrite, hne]), State.hostStore,
    target_word_of_regAt _ hreg]
  simp only [State.writeReg_withPending, State.respond]

end

/-- `STATUS` as a number: `FAULT` in bit 0, `ILLOP` in bit 1, `CAUSE` from bit 4 up (10_state.md R29). -/
theorem Status.word_eq_ofNat (st : Status) :
    st.word = BitVec.ofNat 32 (st.fault.toNat + 2 * st.illop.toNat + 16 * st.cause.toNat) := by
  obtain ⟨fault, illop, cause⟩ := st
  revert fault illop cause
  decide

/-- Settles O13: each offset of the list is a register's, and its word is what that register reads as. -/
theorem registerReadsReturnTheirFields : Obligations.RegisterReadsReturnTheirFields := by
  unfold Obligations.RegisterReadsReturnTheirFields
  intro s rest p hp hpending
  have hreg : ∃ r, regAt p.1 = some r ∧ s.readReg r = p.2 := by
    rw [← Status.word_eq_ofNat] at hp
    simp only [List.mem_cons, List.not_mem_nil, or_false] at hp
    rcases hp with rfl | rfl | rfl | rfl | rfl | rfl | rfl | rfl | rfl | rfl | rfl | rfl <;> exact ⟨_, rfl, rfl⟩
  obtain ⟨r, hr, hword⟩ := hreg
  rw [step_readReg hr hpending, hword]

/-- A write of `STATUS` is seen in `ILLOP` alone. -/
theorem Status.afterWrite_eq (st : Status) (v : Word) :
    st.afterWrite v = { st with illop := st.illop && !v.getLsbD 1 } := by
  unfold Status.afterWrite
  split_ifs with hbit
  · rw [hbit, Bool.not_true, Bool.and_false]
  · rw [Bool.eq_false_of_not_eq_true hbit, Bool.not_false, Bool.and_true]

/-- Settles O14: each offset of the list is a register's, and its state is what a write of that register leaves. -/
theorem registerWritesStoreOrAreIgnored : Obligations.RegisterWritesStoreOrAreIgnored := by
  unfold Obligations.RegisterWritesStoreOrAreIgnored
  intro s rest v p hp hpending
  have hreg : ∃ r, regAt p.1 = some r ∧ r ≠ .cmd ∧ s.writeReg r v = p.2 := by
    rw [← Status.afterWrite_eq] at hp
    simp only [List.mem_cons, List.not_mem_nil, or_false] at hp
    rcases hp with rfl | rfl | rfl | rfl | rfl | rfl | rfl | rfl | rfl | rfl | rfl <;>
      exact ⟨_, rfl, by decide, rfl⟩
  obtain ⟨r, hr, hcmd, hstate⟩ := hreg
  rw [step_writeReg hr hcmd hpending, hstate]

/-! ## What a pass emits lies in the grid -/

/-- A pass emits pixels of a grid of `n` only. -/
def staysInGrid (n : Nat) (outs : List (Nat × PixelOut)) : Prop := ∀ i ∈ outs.map Prod.fst, i < n

/-- A visited position inside a `w` by `h` grid has the index of one of its pixels. -/
theorem ScanPos.index_lt {w h : Nat} {p : ScanPos} (hp : p.x < w ∧ p.y < h) : p.index w < w * h := by
  obtain ⟨hx, hy⟩ := hp
  calc p.y * w + p.x < p.y * w + w := by omega
    _ = (p.y + 1) * w := (Nat.succ_mul p.y w).symm
    _ ≤ h * w := Nat.mul_le_mul_right w hy
    _ = w * h := Nat.mul_comm h w

theorem scanRaster_bounds {w h : Nat} {p : ScanPos} (hp : p ∈ scanRaster w h) : p.x < w ∧ p.y < h := by
  simp only [scanRaster, rowForward, List.mem_flatMap, List.mem_map, List.mem_range] at hp
  obtain ⟨y, hy, x, hx, rfl⟩ := hp
  exact ⟨hx, hy⟩

theorem scanSerpentine_bounds {w h : Nat} {p : ScanPos} (hp : p ∈ scanSerpentine w h) : p.x < w ∧ p.y < h := by
  simp only [scanSerpentine, List.mem_flatMap, List.mem_range] at hp
  obtain ⟨y, hy, hrow⟩ := hp
  split_ifs at hrow <;>
  · simp only [rowForward, rowBackward, List.mem_map, List.mem_reverse, List.mem_range] at hrow
    obtain ⟨x, hx, rfl⟩ := hrow
    exact ⟨hx, hy⟩

theorem pixelwise_stays (light : Nat → Byte → Bool) {n : Nat} {gray : List Byte} (hlen : gray.length = n) :
    staysInGrid n (pixelwise light gray) := by
  intro i hi
  rwa [pixelwise_indices, List.mem_range, hlen] at hi

theorem binaryDiffusion_stays (cfg : Config) (kernel : KernelId) (thr : Byte) (w h : Nat) (gray : List Byte) :
    staysInGrid (w * h) (binaryDiffusion cfg kernel thr w h gray) := by
  intro i hi
  rw [binaryDiffusion, grayPass_indices] at hi
  obtain ⟨p, hp, rfl⟩ := List.mem_map.1 hi
  exact ScanPos.index_lt (scanRaster_bounds hp)

theorem levelDiffusion_stays (cfg : Config) (kernel : KernelId) (levels : Byte) (w h : Nat) (gray : List Byte) :
    staysInGrid (w * h) (levelDiffusion cfg kernel levels w h gray) := by
  intro i hi
  rw [levelDiffusion, grayPass_indices] at hi
  obtain ⟨p, hp, rfl⟩ := List.mem_map.1 hi
  exact ScanPos.index_lt (scanSerpentine_bounds hp)

theorem plainMatch_stays (preinv : Bool) {n : Nat} {src : List Rgba} (pal : List Rgb) (hlen : src.length = n) :
    staysInGrid n (plainMatch preinv src pal) := by
  intro i hi
  rwa [plainMatch_indices, List.mem_range, hlen] at hi

theorem colorDiffusion_stays (cfg : Config) (kernel : KernelId) (preinv : Bool) (w h : Nat) (src : List Rgba)
    (pal : List Rgb) : staysInGrid (w * h) (colorDiffusion cfg kernel preinv w h src pal) := by
  intro i hi
  rw [colorDiffusion, colorPass_indices] at hi
  obtain ⟨p, hp, rfl⟩ := List.mem_map.1 hi
  exact ScanPos.index_lt (scanSerpentine_bounds hp)

/-! ## What a command that answers has done -/

/-- The kinds that write pixels to `IDX` and `PREV`. -/
def CommandKind.emitsPixels : CommandKind → Bool
  | .gray _ | .palette _ => true
  | .levels l => decide (2 ≤ l.toNat)
  | .nop | .reserved | .tone | .packIndex _ | .packSample => false

/-- The depth of a packer. -/
def CommandKind.packDepth : CommandKind → Option Nat
  | .packIndex bpp => some bpp
  | .packSample => some 4
  | .nop | .reserved | .tone | .gray _ | .levels _ | .palette _ => none

/-- The effect of a command of a kind: the state it leaves, from the values it computed. Which values these are is of no
account to the frame and to the invariant. -/
inductive State.Effect (s : State) : CommandKind → State → Prop where
  /-- nothing changes -/
  | nop : s.Effect .nop s
  /-- a reserved opcode (60_exceptions.md R236) -/
  | illop : s.Effect .reserved s.setIllop
  /-- `QEDN` with fewer than two levels (60_exceptions.md R233) -/
  | fault {l : Byte} (hl : l.toNat < 2) : s.Effect (.levels l) (s.raiseFault .levelsLt2)
  /-- one sample for each pixel (40_tone_reducer.md R121) -/
  | samples {bs : List Byte} (hfits : s.gridFits = true) (hlen : bs.length = s.pixels) :
      s.Effect .tone { s with mem := s.mem.writeBytes (elemAddr .gray 0) bs }
  /-- every pixel of the grid and no other (41_stateless_quantizers.md R130) -/
  | pixels {kind : CommandKind} {outs : List (Nat × PixelOut)} (hkind : kind.emitsPixels = true)
      (hfits : s.gridFits = true) (hcovers : coversGrid s.pixels outs) (hstays : staysInGrid s.pixels outs) :
      s.Effect kind { s with mem := s.mem.emitAll outs }
  /-- the packed rows and the metadata (45_bit_packers.md R201, R206) -/
  | packed {kind : CommandKind} {n : BitVec 3} {buf : List Byte} (hkind : kind.packDepth = some n.toNat)
      (hdepth : n = 1 ∨ n = 2 ∨ n = 3 ∨ n = 4) (hfits : s.gridFits = true)
      (hlen : buf.length = bytesPerRow n.toNat s.gridW * s.gridH) :
      s.Effect kind (s.storePacked n (bytesPerRow n.toNat s.gridW) buf)

theorem State.quantizeGray_effect {s t : State} {kind : CommandKind} {pass : List Byte → List (Nat × PixelOut)}
    (hkind : kind.emitsPixels = true)
    (hpass : ∀ gray, gray.length = s.pixels → coversGrid s.pixels (pass gray) ∧ staysInGrid s.pixels (pass gray))
    (h : s.quantizeGray pass = .next t) : s.Effect kind t := by
  obtain ⟨hfits, gray, hgray, rfl⟩ := State.quantizeGray_next.1 h
  obtain ⟨hcovers, hstays⟩ := hpass gray (gather_range.1 hgray).1
  exact .pixels hkind hfits hcovers hstays

theorem State.quantizePalette_effect {s t : State} {npal : Nat} {pass : List Rgba → List Rgb → List (Nat × PixelOut)}
    (hpass : ∀ src pal, src.length = s.pixels →
      coversGrid s.pixels (pass src pal) ∧ staysInGrid s.pixels (pass src pal))
    (h : s.quantizePalette npal pass = .next t) : s.Effect (.palette npal) t := by
  obtain ⟨hfits, src, pal, hsrc, -, rfl⟩ := State.quantizePalette_next.1 h
  obtain ⟨hcovers, hstays⟩ := hpass src pal (gather_range.1 hsrc).1
  exact .pixels rfl hfits hcovers hstays

theorem State.storePacked_effect {α : Type} {s t : State} {kind : CommandKind} {n : BitVec 3} {input : Option α}
    {pack : α → List Byte} (hkind : kind.packDepth = some n.toNat) (hdepth : n = 1 ∨ n = 2 ∨ n = 3 ∨ n = 4)
    (hlen : ∀ x, (pack x).length = bytesPerRow n.toNat s.gridW * s.gridH)
    (h : (s.withInput input fun x => .next (s.storePacked n (bytesPerRow n.toNat s.gridW) (pack x))) = .next t) :
    s.Effect kind t := by
  obtain ⟨hfits, x, -, ht⟩ := State.withInput_next.1 h
  cases ht
  exact .packed hkind hdepth hfits (hlen x)

/-- Every command that answers a next state has the effect of its kind. -/
theorem exec_effect {i : Instr} {s t : State} (h : exec i s = .next t) : s.Effect (commandKind i) t := by
  have hop := exec_kind i s
  cases hk : commandKind i <;> simp only [hk, h] at hop ⊢
  case nop => cases hop; exact .nop
  case reserved => cases hop; exact .illop
  case tone =>
    obtain ⟨hfits, src, hsrc, ht⟩ := State.withInput_next.1 hop.symm
    cases ht
    exact .samples hfits (by simpa using (gather_range.1 hsrc).1)
  case gray =>
    rcases hop with ⟨thr, hop⟩ | ⟨thr, hop⟩ | ⟨kernel, thr, hop⟩
    · exact State.quantizeGray_effect rfl (fun _ hlen => ⟨pixelwise_covers _ hlen, pixelwise_stays _ hlen⟩) hop.symm
    · exact State.quantizeGray_effect rfl (fun _ hlen => ⟨pixelwise_covers _ hlen, pixelwise_stays _ hlen⟩) hop.symm
    · exact State.quantizeGray_effect rfl
        (fun gray _ => ⟨binaryDiffusion_covers _ _ _ _ _ gray, binaryDiffusion_stays _ _ _ _ _ gray⟩) hop.symm
  case levels levels =>
    obtain ⟨kernel, hop⟩ := hop
    unfold State.qedn at hop
    split_ifs at hop with hlevels
    · cases hop
      exact .fault hlevels
    · exact State.quantizeGray_effect (decide_eq_true (by omega))
        (fun gray _ => ⟨levelDiffusion_covers _ _ _ _ _ gray, levelDiffusion_stays _ _ _ _ _ gray⟩) hop.symm
  case palette =>
    rcases hop with ⟨preinv, hop⟩ | ⟨kernel, preinv, hop⟩
    · exact State.quantizePalette_effect
        (fun _ pal hlen => ⟨plainMatch_covers _ pal hlen, plainMatch_stays _ pal hlen⟩) hop.symm
    · exact State.quantizePalette_effect
        (fun src pal _ => ⟨colorDiffusion_covers _ _ _ _ _ src pal, colorDiffusion_stays _ _ _ _ _ src pal⟩) hop.symm
  case packIndex =>
    rcases hop with ⟨rfl, inv, hop⟩ | ⟨rfl, hop⟩ | ⟨rfl, hop⟩
    · exact State.storePacked_effect (n := 1) rfl (by decide) (pack1_length inv _ _) hop.symm
    · exact State.storePacked_effect (n := 2) rfl (by decide) (pack2_length _ _) hop.symm
    · exact State.storePacked_effect (n := 3) rfl (by decide) (pack3_length _ _) hop.symm
  case packSample =>
    obtain ⟨inv, hop⟩ := hop
    exact State.storePacked_effect (n := 4) rfl (by decide) (pack4_length inv _ _) hop.symm

/-! ## The bytes an effect writes -/

/-- The elements of a one-byte memory are an interval of addresses. -/
theorem mem_elemAddrs_iff {w : Window} {n a : Nat} : a ∈ elemAddrs w n ↔ w.base ≤ a ∧ a < w.base + n := by
  rw [mem_elemAddrs]
  constructor
  · rintro ⟨i, hi, rfl⟩
    simp only [elemAddr]
    omega
  · rintro ⟨hlow, hhigh⟩
    exact ⟨a - w.base, by omega, by simp only [elemAddr]; omega⟩

section
variable (m : Memory) {w : Window} {n x : Nat} {bs : List Byte} (hlen : bs.length = n)
include hlen

theorem Memory.read_writeElems_outside (hx : x ∉ elemAddrs w n) :
    (m.writeBytes (elemAddr w 0) bs).read x = m.read x := by
  rw [mem_elemAddrs_iff] at hx
  exact Memory.read_writeBytes_outside m (by simp only [elemAddr]; omega)

theorem Memory.read_writeElems_isSome (hx : x ∈ elemAddrs w n) :
    ((m.writeBytes (elemAddr w 0) bs).read x).isSome := by
  obtain ⟨i, hi, rfl⟩ := mem_elemAddrs.1 hx
  have hread := Memory.read_writeBytes_inside m (elemAddr w 0) (hlen ▸ hi)
  simp only [elemAddr, Nat.add_zero] at hread ⊢
  rw [hread]
  rfl

end

/-- What reads as a byte after a pixel is emitted: its five bytes, and what did before. -/
theorem Memory.read_emit_isSome (m : Memory) (i : Nat) (o : PixelOut) (x : Nat) :
    ((m.emit i o).read x).isSome ↔ pixelHolds i x ∨ (m.read x).isSome := by
  rw [Memory.read_emit]
  constructor
  · intro h
    split_ifs at h with h0 h1 h2 h3 h4
    · exact .inl (.inr ⟨0, by decide, h0⟩)
    · exact .inl (.inr ⟨1, by decide, h1⟩)
    · exact .inl (.inr ⟨2, by decide, h2⟩)
    · exact .inl (.inr ⟨3, by decide, h3⟩)
    · exact .inl (.inl h4)
    · exact .inr h
  · intro h
    split_ifs with h0 h1 h2 h3 h4
    any_goals rfl
    rcases h with (h | ⟨c, hc, h⟩) | h
    · exact absurd h h4
    · interval_cases c <;> contradiction
    · exact h

/-- The same after a pass. -/
theorem Memory.read_emitAll_isSome (m : Memory) (outs : List (Nat × PixelOut)) (x : Nat) :
    ((m.emitAll outs).read x).isSome ↔ (∃ i ∈ outs.map Prod.fst, pixelHolds i x) ∨ (m.read x).isSome := by
  induction outs generalizing m with
  | nil => simp
  | cons p outs ih =>
    rw [Memory.emitAll_cons, ih, Memory.read_emit_isSome, List.map_cons, List.exists_mem_cons_iff, ← or_assoc,
      or_comm (a := pixelHolds p.1 x)]

section
variable {s t : State} {kind : CommandKind}

theorem CommandKind.writes_of_emitsPixels (h : kind.emitsPixels = true) (w k : Nat) :
    kind.writes w k = pixelAddrs (w * k) := by
  cases kind <;> simp only [CommandKind.emitsPixels, Bool.false_eq_true, decide_eq_true_eq] at h
  case gray => rfl
  case palette => rfl
  case levels => exact if_neg (by omega)

theorem CommandKind.writes_of_packDepth {bpp : Nat} (h : kind.packDepth = some bpp) (w k : Nat) :
    kind.writes w k = elemAddrs .pbuf (bytesPerRow bpp w * k) := by
  cases kind <;> simp only [CommandKind.packDepth, Option.some.injEq, reduceCtorEq] at h <;> subst h <;> rfl

/-- Outside the bytes its kind writes an effect leaves memory as it was. -/
theorem State.Effect.sameOutside (h : s.Effect kind t) : sameOutside (kind.writes s.gridW s.gridH) s t := by
  intro a ha
  cases h with
  | nop => rfl
  | illop => rfl
  | fault => rfl
  | samples _ hlen => exact Memory.read_writeElems_outside _ hlen ha
  | pixels hkind _ _ hstays =>
    rw [CommandKind.writes_of_emitsPixels hkind, mem_pixelAddrs] at ha
    refine Memory.read_emitAll_outside _ fun p hp => ?_
    have hin := hstays p.1 (List.mem_map_of_mem hp)
    exact ⟨fun hidx => ha ⟨p.1, hin, .inl hidx⟩, fun c hc hprev => ha ⟨p.1, hin, .inr ⟨c, hc, hprev⟩⟩⟩
  | packed hkind _ _ hlen =>
    rw [CommandKind.writes_of_packDepth hkind] at ha
    exact Memory.read_writeElems_outside _ hlen ha

/-- Every byte its kind writes has been written. -/
theorem State.Effect.written (h : s.Effect kind t) : t.written (kind.writes s.gridW s.gridH) := by
  intro a ha
  cases h with
  | nop => cases ha
  | illop => cases ha
  | fault hl =>
    rw [CommandKind.writes, if_pos hl] at ha
    cases ha
  | samples _ hlen => exact Memory.read_writeElems_isSome _ hlen ha
  | pixels hkind _ hcovers _ =>
    rw [CommandKind.writes_of_emitsPixels hkind, mem_pixelAddrs] at ha
    obtain ⟨i, hi, hholds⟩ := ha
    exact (Memory.read_emitAll_isSome _ _ _).2 (.inl ⟨i, hcovers i hi, hholds⟩)
  | packed hkind _ _ hlen =>
    rw [CommandKind.writes_of_packDepth hkind] at ha
    exact Memory.read_writeElems_isSome _ hlen ha

end

/-- Settles O20: the frame in memory by `Effect.sameOutside` and `Effect.written`, the registers by the effect itself. -/
theorem commandsWriteOnlyTheirOutputs : Obligations.CommandsWriteOnlyTheirOutputs := by
  unfold Obligations.CommandsWriteOnlyTheirOutputs
  intro i s t h
  have heff := exec_effect h
  refine ⟨heff.sameOutside, heff.written, ?_⟩
  generalize commandKind i = kind at heff
  cases heff with
  | nop => rfl
  | illop => rfl
  | fault hl => exact (if_pos hl).mpr rfl
  | samples => rfl
  | pixels hkind =>
    cases kind <;> simp only [CommandKind.emitsPixels, Bool.false_eq_true, decide_eq_true_eq] at hkind
    case gray => rfl
    case palette => rfl
    case levels => exact (if_neg (by omega)).mpr rfl
  | packed hkind =>
    cases kind <;> simp only [CommandKind.packDepth, reduceCtorEq] at hkind
    case packIndex => rfl
    case packSample => rfl

/-! ## The address map holds what is written (20_memory.md R64) -/

theorem inWindow_of_holds {maxPix a n : Nat} {w : Window} (h : w.holds maxPix a n = true) :
    inWindow maxPix a n = true :=
  List.any_eq_true.2 ⟨w, by cases w <;> decide, h⟩

theorem Window.holds_iff {maxPix a n : Nat} {w : Window} :
    w.holds maxPix a n = true ↔ w.base ≤ a ∧ a + n ≤ w.base + w.size maxPix := by
  simp [Window.holds]

/-- A byte of an access that lies in a window lies in it. -/
theorem inWindow_byte {maxPix a n x : Nat} (h : inWindow maxPix a n = true) (hlow : a ≤ x) (hhigh : x < a + n) :
    inWindow maxPix x 1 = true := by
  obtain ⟨w, -, hw⟩ := List.any_eq_true.1 h
  rw [Window.holds_iff] at hw
  exact inWindow_of_holds (w := w) (Window.holds_iff.2 (by omega))

theorem inWindow_elemAddr {maxPix i : Nat} {w : Window} (hw : w.size maxPix = maxPix) (hi : i < maxPix) :
    inWindow maxPix (elemAddr w i) 1 = true :=
  inWindow_of_holds (w := w) (Window.holds_iff.2 (by simp only [elemAddr]; omega))

theorem inWindow_chanAddr {maxPix i c : Nat} {w : Window} (hw : w.size maxPix = 4 * maxPix) (hi : i < maxPix)
    (hc : c < 4) : inWindow maxPix (chanAddr w i c) 1 = true :=
  inWindow_of_holds (w := w) (Window.holds_iff.2 (by simp only [chanAddr]; omega))

/-- The bytes of an access decoded as memory lie in one window. -/
theorem inWindow_of_target_mem {maxPix a : Nat} {w : AccessWidth} (h : target maxPix a w = .mem) :
    inWindow maxPix a w.bytes = true := by
  unfold target at h
  split_ifs at h with haligned hlow hin
  · split at h <;> cases h
  · exact hin

/-- Packing takes no more bytes than the grid has pixels. -/
theorem bytesPerRow_le (bpp w : Nat) : bytesPerRow bpp w ≤ w := by
  unfold bytesPerRow
  split
  case h_5 => exact Nat.zero_le w
  all_goals simp only [bpr1, bpr2, bpr3, bpr4, ceilDiv]; omega

theorem State.packLength_le {s : State} (bpp : Nat) (hfits : s.gridFits = true) :
    bytesPerRow bpp s.gridW * s.gridH ≤ s.cfg.maxPix :=
  (Nat.mul_le_mul_right _ (bytesPerRow_le bpp _)).trans (s.gridFits_iff.1 hfits)

section
variable {s t : State} {kind : CommandKind}

/-- What an effect writes is mapped: a grid that fits lies inside the memories. -/
theorem State.Effect.writes_mapped (h : s.Effect kind t) :
    ∀ a ∈ kind.writes s.gridW s.gridH, inWindow s.cfg.maxPix a 1 = true := by
  intro a ha
  cases h with
  | nop => cases ha
  | illop => cases ha
  | fault hl =>
    rw [CommandKind.writes, if_pos hl] at ha
    cases ha
  | samples hfits =>
    obtain ⟨i, hi, rfl⟩ := mem_elemAddrs.1 ha
    exact inWindow_elemAddr rfl (hi.trans_le (s.gridFits_iff.1 hfits))
  | pixels hkind hfits =>
    rw [CommandKind.writes_of_emitsPixels hkind, mem_pixelAddrs] at ha
    obtain ⟨i, hi, hholds⟩ := ha
    have hcap : i < s.cfg.maxPix := hi.trans_le (s.gridFits_iff.1 hfits)
    rcases hholds with rfl | ⟨c, hc, rfl⟩
    · exact inWindow_elemAddr rfl hcap
    · exact inWindow_chanAddr rfl hcap hc
  | packed hkind _ hfits =>
    rw [CommandKind.writes_of_packDepth hkind] at ha
    obtain ⟨i, hi, rfl⟩ := mem_elemAddrs.1 ha
    exact inWindow_elemAddr rfl (hi.trans_le (State.packLength_le _ hfits))

/-- Every effect leaves the memory in canonical form. -/
theorem State.Effect.memWf (h : s.Effect kind t) (hs : s.mem.wf) : t.mem.wf := by
  cases h with
  | nop | illop | fault => exact hs
  | samples | packed => exact Memory.wf_writeBytes hs _ _
  | pixels => exact Memory.wf_emitAll hs _

end

/-- A memory of which only mapped bytes have been written stays one. -/
theorem memMapped_of_sameOutside {maxPix : Nat} {addrs : List Nat} {s t : State} (hwf : t.mem.wf)
    (hs : ∀ p ∈ s.mem, inWindow maxPix p.1 1 = true) (houtside : sameOutside addrs s t)
    (haddrs : ∀ a ∈ addrs, inWindow maxPix a 1 = true) : ∀ p ∈ t.mem, inWindow maxPix p.1 1 = true := by
  intro p hp
  by_cases hin : p.1 ∈ addrs
  · exact haddrs p.1 hin
  · have hread : s.mem.read p.1 = some p.2 := (houtside p.1 hin).symm.trans (Memory.read_of_mem hwf hp)
    exact hs (p.1, p.2) (Memory.mem_of_read hread)

/-! ## The command word of `QEDN` -/

@[simp] theorem commandKind_qedbOf (ksel : BitVec 4) (thr : Byte) : commandKind (qedbOf ksel thr) = .gray 2 := by
  unfold qedbOf
  split <;> rfl

@[simp] theorem commandKind_qednOf (ksel : BitVec 4) (levels : Byte) :
    commandKind (qednOf ksel levels) = .levels levels := by
  unfold qednOf
  split <;> rfl

@[simp] theorem commandKind_qpalOf (ksel : BitVec 4) (npal : Nat) (preinv : Bool) :
    commandKind (qpalOf ksel npal preinv) = .palette npal := by
  unfold qpalOf
  split <;> rfl

/-- A word that decodes to `QEDN` has its opcode and its levels (30_encoding.md R92, R94). -/
theorem fields_of_levels {c : Word} {l : Byte} (h : commandKind (decodeWord c) = .levels l) :
    opField c = 5 ∧ imm8Field c = l := by
  unfold decodeWord at h
  split at h
  case h_5 =>
    rw [commandKind_qedbOf] at h
    cases h
  case h_7 =>
    rw [commandKind_qpalOf] at h
    cases h
  case h_6 hop =>
    rw [commandKind_qednOf, CommandKind.levels.injEq] at h
    exact ⟨BitVec.eq_of_toNat_eq hop, h⟩
  all_goals cases h

theorem faultingWord_of_levels {c : Word} {l : Byte} (h : commandKind (decodeWord c) = .levels l)
    (hl : l.toNat < 2) : faultingWord c = true := by
  obtain ⟨hop, rfl⟩ := fields_of_levels h
  simp [faultingWord, hop, hl]

/-! ## The invariant -/

/-- The largest capacity the spec allows (00_scope.md R10). -/
theorem Config.maxPix_le {c : Config} (h : c.wf = true) : c.maxPix ≤ 4194304 := by
  simp only [Config.wf, Bool.and_eq_true, decide_eq_true_eq] at h
  obtain ⟨⟨⟨-, hcap⟩, -⟩, -⟩ := h
  exact hcap

/-- The invariant says nothing of what the host has yet to issue or of the answer it got. -/
theorem State.Inv.hostSide {s : State} (hs : s.Inv) (pending : List HostOp) (response : Response) :
    State.Inv { s with pending := pending, response := response } :=
  ⟨hs.cfgOk, hs.memWf, hs.memMapped, hs.busIdle, hs.fault, hs.metadata⟩

section
variable {s t : State} {kind : CommandKind}

/-- A fault records the word on the bus, and no other effect touches what is recorded. -/
theorem State.Effect.faultRecorded (h : s.Effect kind t) (hs : s.faultRecorded)
    (hword : ∀ l : Byte, kind = .levels l → l.toNat < 2 → faultingWord s.busData = true) : t.faultRecorded := by
  cases h with
  | nop | illop | samples | pixels | packed => exact hs
  | fault hl => exact .inr ⟨rfl, rfl, hword _ rfl hl⟩

/-- A packer's metadata agrees with the grid it packed: the length fits `RES_LEN`. -/
theorem State.Effect.metadataAgrees (h : s.Effect kind t) (hcfg : s.cfg.wf = true) (hs : s.metadataAgrees) :
    t.metadataAgrees := by
  cases h with
  | nop | illop | fault | samples | pixels => exact hs
  | packed _ hdepth hfits =>
    refine .inr ⟨hdepth, ?_, s.gridFits_iff.1 hfits⟩
    rw [State.storePacked_resLen, BitVec.toNat_ofNat]
    refine Nat.mod_eq_of_lt ?_
    calc bytesPerRow _ s.gridW * s.gridH ≤ s.cfg.maxPix := State.packLength_le _ hfits
      _ ≤ 4194304 := Config.maxPix_le hcfg
      _ < 2 ^ 32 := by decide

end

/-- A command keeps the invariant over its `CMD` write: the word is on the bus while it runs, and off it at the end. -/
theorem State.Inv.endCommand {s u : State} {c : Word} (hs : s.Inv)
    (h : exec (decodeWord c) (s.beginCommand c) = .next u) : u.endCommand.Inv := by
  have heff := exec_effect h
  have hcfg : u.cfg = s.cfg := (exec_keeps_cfg h).trans (s.beginCommand_cfg c)
  have hwf : u.mem.wf := heff.memWf hs.memWf
  refine ⟨?_, hwf, ?_, rfl, ?_, ?_⟩
  · rw [State.endCommand_cfg, hcfg]
    exact hs.cfgOk
  · rw [State.endCommand_cfg, hcfg]
    exact memMapped_of_sameOutside hwf hs.memMapped heff.sameOutside heff.writes_mapped
  · exact heff.faultRecorded hs.fault fun l => faultingWord_of_levels
  · exact heff.metadataAgrees hs.cfgOk hs.metadata

/-- A register write keeps the invariant: it reaches no register the invariant speaks of but `ILLOP`. -/
theorem State.Inv.writeReg {s : State} (hs : s.Inv) (r : Reg) (v : Word) : (s.writeReg r v).Inv := by
  obtain ⟨w, h, m, st, hwrite, hfault, hcause⟩ := s.writeReg_eq r v
  rw [hwrite]
  refine ⟨hs.cfgOk, hs.memWf, hs.memMapped, hs.busIdle, ?_, hs.metadata⟩
  simpa only [State.faultRecorded, hfault, hcause] using hs.fault

/-- A run of bytes inside one window keeps the invariant. -/
theorem State.Inv.writeBytes {s : State} (hs : s.Inv) {a n : Nat} {bs : List Byte} (hlen : bs.length = n)
    (hin : inWindow s.cfg.maxPix a n = true) : State.Inv { s with mem := s.mem.writeBytes a bs } := by
  refine ⟨hs.cfgOk, Memory.wf_writeBytes hs.memWf a bs, fun p hp => ?_, hs.busIdle, hs.fault, hs.metadata⟩
  rcases Memory.mem_writeBytes hp with ⟨hlow, hhigh⟩ | hp
  · exact inWindow_byte hin hlow (hlen ▸ hhigh)
  · exact hs.memMapped p hp

@[simp] theorem AccessWidth.dataBytes_length (w : AccessWidth) (v : Word) : (w.dataBytes v).length = w.bytes := by
  cases w <;> rfl

/-- So does every write of the host that is no command. -/
theorem State.Inv.hostStore {s : State} (hs : s.Inv) (a : Nat) (w : AccessWidth) (v : Word) :
    (s.hostStore a w v).Inv := by
  rcases s.hostStore_cases a w v with ⟨r, -, hstore⟩ | ⟨htarget, hstore⟩ | ⟨-, hstore⟩ <;> rw [hstore]
  · exact (hs.writeReg r v).hostSide _ _
  · exact (hs.writeBytes (w.dataBytes_length v) (inWindow_of_target_mem htarget)).hostSide _ _
  · exact hs.hostSide _ _

/-- Settles O51: no register records anything, and no byte has been written. -/
theorem resetMeetsTheInvariant : Obligations.ResetMeetsTheInvariant where
  cfgOk := by decide
  memWf := .nil
  memMapped := by simp [State.reset]
  busIdle := rfl
  fault := .inl ⟨rfl, rfl, rfl⟩
  metadata := .inl ⟨rfl, rfl, rfl, rfl, rfl⟩

/-- Reset records nothing, and keeps the parameters and the memories. -/
theorem State.Inv.afterReset {s : State} (hs : s.Inv) : s.afterReset.Inv :=
  ⟨hs.cfgOk, hs.memWf, hs.memMapped, rfl, .inl ⟨rfl, rfl, rfl⟩, .inl ⟨rfl, rfl, rfl, rfl, rfl⟩⟩

/-- Settles O50, by the kinds of step. -/
theorem stepKeepsTheInvariant : Obligations.StepKeepsTheInvariant := by
  unfold Obligations.StepKeepsTheInvariant
  intro s t hs h
  rcases step_cases h with ⟨-, rfl⟩ | ⟨op, rest, -, hop⟩
  · exact hs
  have hserved : State.Inv { s with pending := rest } := hs.hostSide rest s.response
  rcases hop with ⟨a, w, -, hread⟩ | ⟨c, -, -, rfl⟩ | ⟨c, u, -, -, hexec, rfl⟩ | ⟨a, w, v, -, -, rfl⟩ | ⟨-, rfl⟩
  · obtain ⟨r, rfl⟩ := State.hostRead_next hread
    exact hserved.hostSide _ _
  · exact hserved.hostSide _ _
  · exact hserved.endCommand hexec
  · exact hserved.hostStore a w v
  · exact hserved.afterReset

end Sys2Proof.Machine
end

section
/-! PROOFS. The statements of 20_memory.md: the address map, which accesses the host port accepts, what an accepted
access of a memory does, and that no command reads a memory it writes. -/

namespace Sys2Proof.Machine

/-! ## No command reads a memory it writes (20_memory.md R70, R77) -/

/-- The lowest memory a kind of command writes. The map lays the memories out in the order of the pipeline, so that
everything a command reads lies below it. -/
def CommandKind.firstOutput : CommandKind → Window
  | .nop | .reserved | .tone => .gray
  | .gray _ | .levels _ | .palette _ => .idx
  | .packIndex _ | .packSample => .pbuf

theorem chanAddrs_bounds {w : Window} {n c a : Nat} (hc : c ≤ 4) (ha : a ∈ chanAddrs w n c) :
    w.base ≤ a ∧ a < w.base + 4 * n := by
  obtain ⟨i, hi, k, hk, rfl⟩ := mem_chanAddrs.1 ha
  simp only [chanAddr]
  omega

theorem pixelAddrs_ge {n a : Nat} (ha : a ∈ pixelAddrs n) : Window.idx.base ≤ a := by
  rcases List.mem_append.1 ha with ha | ha
  · exact (mem_elemAddrs_iff.1 ha).1
  · exact Nat.le_trans (by decide) (chanAddrs_bounds (Nat.le_refl 4) ha).1

theorem CommandKind.writes_ge {kind : CommandKind} {w h a : Nat} (ha : a ∈ kind.writes w h) :
    kind.firstOutput.base ≤ a := by
  cases kind with
  | nop | reserved => cases ha
  | tone | packIndex | packSample => exact (mem_elemAddrs_iff.1 ha).1
  | gray | palette => exact pixelAddrs_ge ha
  | levels l =>
    simp only [CommandKind.writes] at ha
    split_ifs at ha
    · cases ha
    · exact pixelAddrs_ge ha

/-- `2^22` pixels, the largest capacity, is what keeps the memories apart (20_memory.md R64). -/
theorem CommandKind.reads_lt {kind : CommandKind} {n a : Nat} (hn : n ≤ 4194304)
    (hnpal : ∀ npal, kind = .palette npal → npal ≤ 16) (ha : a ∈ kind.reads n) : a < kind.firstOutput.base := by
  cases kind with
  | nop | reserved => cases ha
  | tone =>
    have hhigh : a < 0x01000000 + 4 * n := (chanAddrs_bounds (by decide) ha).2
    change a < 0x02000000
    omega
  | gray =>
    have hhigh : a < 0x02000000 + n := (mem_elemAddrs_iff.1 ha).2
    change a < 0x03000000
    omega
  | levels l =>
    simp only [CommandKind.reads] at ha
    split_ifs at ha
    · cases ha
    · have hhigh : a < 0x02000000 + n := (mem_elemAddrs_iff.1 ha).2
      change a < 0x03000000
      omega
  | palette npal =>
    have hentries := hnpal npal rfl
    change a < 0x03000000
    rcases List.mem_append.1 ha with ha | ha
    · have hhigh : a < 0x01000000 + 4 * n := (chanAddrs_bounds (by decide) ha).2
      omega
    · split_ifs at ha
      · cases ha
      · have hhigh : a < 0x100 + 4 * npal := (chanAddrs_bounds (by decide) ha).2
        omega
  | packIndex =>
    have hhigh : a < 0x03000000 + n := (mem_elemAddrs_iff.1 ha).2
    change a < 0x05000000
    omega
  | packSample =>
    obtain ⟨i, hi, rfl⟩ := List.mem_map.1 ha
    rw [List.mem_range] at hi
    change 0x04000000 + 4 * i + 0 < 0x05000000
    omega

/-- A palette that can be written in a command word fits `PAL` (30_encoding.md R94). -/
theorem npal_le_of_wf {i : Instr} (hi : i.wf = true) (npal : Nat) (hk : commandKind i = .palette npal) : npal ≤ 16 := by
  cases i <;> simp only [commandKind, CommandKind.palette.injEq, reduceCtorEq] at hk
  all_goals
    subst hk
    simp only [Instr.wf, npalOk, Bool.and_eq_true, decide_eq_true_eq] at hi
    exact hi.2

/-- A packer emits no pixels. -/
theorem CommandKind.emitsPixels_of_packDepth {kind : CommandKind} {bpp : Nat} (h : kind.packDepth = some bpp) :
    kind.emitsPixels = false := by
  cases kind with
  | packIndex | packSample => rfl
  | nop | reserved | tone | gray | levels | palette => cases h

section
variable {s t t' : State} {kind : CommandKind}

/-- A command that does not check the grid writes no memory. -/
theorem State.Effect.gridFits_or_mem_eq (h : s.Effect kind t) : s.gridFits = true ∨ t.mem = s.mem := by
  cases h with
  | nop | illop | fault => exact .inr rfl
  | samples hfits | pixels _ hfits | packed _ _ hfits => exact .inl hfits

/-- After a command its own inputs are as before it. -/
theorem State.Effect.sameInputs (h : s.Effect kind t) (hcfg : s.cfg.wf = true)
    (hnpal : ∀ npal, kind = .palette npal → npal ≤ 16) : s.SameInputs (kind.reads s.pixels) t where
  cfg := by cases h <;> rfl
  width := by cases h <;> rfl
  height := by cases h <;> rfl
  mem := fun a ha => by
    rcases h.gridFits_or_mem_eq with hfits | hmem
    · have hcap : s.pixels ≤ 4194304 := (s.gridFits_iff.1 hfits).trans (Config.maxPix_le hcfg)
      exact h.sameOutside a fun hw =>
        absurd (CommandKind.reads_lt hcap hnpal ha) (Nat.not_lt.2 (CommandKind.writes_ge hw))
    · rw [hmem]

/-- The registers a kind of command sets, it sets to the same values again. -/
theorem State.Effect.sameButMemory_again (h : s.Effect kind t) (h' : t.Effect kind t') : sameButMemory t t' := by
  cases h' with
  | nop | samples | pixels => rfl
  | illop =>
    cases h with
    | illop => rfl
    | pixels hkind | packed hkind => cases hkind
  | fault hl =>
    cases h with
    | fault => rfl
    | pixels hkind => exact absurd hl (Nat.not_lt.2 (of_decide_eq_true hkind))
    | packed hkind => cases hkind
  | packed hkind' =>
    cases h with
    | nop | illop | fault | samples => cases hkind'
    | pixels hkind => simp [CommandKind.emitsPixels_of_packDepth hkind'] at hkind
    | packed hkind =>
      rw [hkind, Option.some.injEq] at hkind'
      cases BitVec.eq_of_toNat_eq hkind'
      rfl

end

/-- Settles O22: the command finds its inputs as they were, so it writes the same bytes again, and a canonical memory is
what it reads as. -/
theorem repeatingACommandChangesNothing : Obligations.RepeatingACommandChangesNothing := by
  unfold Obligations.RepeatingACommandChangesNothing
  intro i s t hi hcfg hwf h
  have heff := exec_effect h
  have hin := heff.sameInputs hcfg (npal_le_of_wf hi)
  obtain ⟨t', ht', hwritten, -⟩ :=
    commandsArePureFunctionsOfTheirInputs i s t t hin.cfg hin.width hin.height hin.mem h
  have heff' := exec_effect ht'
  have hmem : t'.mem = t.mem := by
    refine Memory.ext_read (heff'.memWf (heff.memWf hwf)) (heff.memWf hwf) fun a => ?_
    by_cases ha : a ∈ (commandKind i).writes s.gridW s.gridH
    · exact hwritten a ha
    · exact heff'.sameOutside a (by rwa [hin.gridW_eq, hin.gridH_eq])
  have hregs : t' = { t with mem := t'.mem } := heff.sameButMemory_again heff'
  rw [ht', hregs, hmem]

/-! ## The address map (20_memory.md R63, R64) -/

/-- Settles O18: each address is its window's base and an offset. -/
theorem elementsAreAtTheMapsAddresses : Obligations.ElementsAreAtTheMapsAddresses := by
  unfold Obligations.ElementsAreAtTheMapsAddresses
  intro i c
  exact ⟨rfl, rfl, rfl, rfl, rfl, rfl⟩

/-! ## Which accesses the port accepts (20_memory.md R64, R68, R69) -/

/-- The windows of the map, one by one. -/
theorem inWindow_iff {maxPix a n : Nat} :
    inWindow maxPix a n = true ↔
      (0x100 ≤ a ∧ a + n ≤ 0x140) ∨
      (0x01000000 ≤ a ∧ a + n ≤ 0x01000000 + 4 * maxPix) ∨
      (0x02000000 ≤ a ∧ a + n ≤ 0x02000000 + maxPix) ∨
      (0x03000000 ≤ a ∧ a + n ≤ 0x03000000 + maxPix) ∨
      (0x04000000 ≤ a ∧ a + n ≤ 0x04000000 + 4 * maxPix) ∨
      (0x05000000 ≤ a ∧ a + n ≤ 0x05000000 + maxPix) := by
  simp only [inWindow, Window.all, List.any_cons, List.any_nil, Bool.or_false, Bool.or_eq_true, Window.holds_iff]
  rfl

/-- Memories lie above the registers. -/
theorem le_of_inWindow {maxPix a n : Nat} (h : inWindow maxPix a n = true) : 0x100 ≤ a := by
  rw [inWindow_iff] at h
  omega

theorem exists_regAt_iff {a : Nat} :
    (∃ r, regAt a = some r) ↔ a ∈ [0x00, 0x04, 0x08, 0x0C, 0x10, 0x14, 0x18, 0x20, 0x24, 0x28, 0x2C, 0x30] := by
  constructor
  · rintro ⟨r, hr⟩
    unfold regAt at hr
    split at hr
    case h_13 => cases hr
    all_goals decide
  · intro ha
    simp only [List.mem_cons, List.not_mem_nil, or_false] at ha
    rcases ha with rfl | rfl | rfl | rfl | rfl | rfl | rfl | rfl | rfl | rfl | rfl | rfl <;> exact ⟨_, rfl⟩

section
variable {maxPix a : Nat} {w : AccessWidth}

theorem AccessWidth.bytes_eq_four : w.bytes = 4 ↔ w = .word := by cases w <;> decide

/-- An accepted access is one of a register or one of a memory. -/
theorem acceptedAccess_iff :
    acceptedAccess maxPix a w.bytes ↔
      (w = .word ∧ ∃ r, regAt a = some r) ∨ (a % w.bytes = 0 ∧ inWindow maxPix a w.bytes = true) := by
  rw [acceptedAccess, ← inWindow_iff, ← exists_regAt_iff, AccessWidth.bytes_eq_four, and_or_left]
  refine or_congr_left (and_iff_right_of_imp ?_)
  rintro ⟨rfl, r, hr⟩
  exact (regAt_bounds hr).1

theorem target_eq_reg_iff {r : Reg} : target maxPix a w = .reg r ↔ w = .word ∧ regAt a = some r := by
  constructor
  · intro h
    unfold target at h
    split_ifs at h with haligned hlow
    split at h
    · rename_i hr
      cases h
      exact ⟨rfl, hr⟩
    · cases h
  · rintro ⟨rfl, hr⟩
    exact target_word_of_regAt maxPix hr

theorem target_eq_mem_iff : target maxPix a w = .mem ↔ a % w.bytes = 0 ∧ inWindow maxPix a w.bytes = true := by
  constructor
  · intro h
    refine ⟨?_, inWindow_of_target_mem h⟩
    by_contra haligned
    unfold target at h
    rw [if_pos haligned] at h
    cases h
  · rintro ⟨haligned, hin⟩
    unfold target
    rw [if_neg (not_not.2 haligned), if_neg (Nat.not_lt.2 (le_of_inWindow hin)), if_pos hin]

theorem target_eq_error_iff : target maxPix a w = .error ↔ ¬ acceptedAccess maxPix a w.bytes := by
  rw [acceptedAccess_iff, ← target_eq_mem_iff, ← exists_and_left]
  simp only [← target_eq_reg_iff (maxPix := maxPix)]
  cases target maxPix a w <;> simp

/-- An accepted access above the registers is one of a memory. -/
theorem target_mem_of_accepted (hacc : acceptedAccess maxPix a w.bytes) (ha : 0x100 ≤ a) :
    target maxPix a w = .mem := by
  rcases acceptedAccess_iff.1 hacc with ⟨-, r, hr⟩ | hmem
  · exact absurd (regAt_bounds hr).2 (Nat.not_lt.2 ha)
  · exact target_eq_mem_iff.2 hmem

/-- A write of `CMD` is accepted. -/
theorem accepted_of_isCmdWrite (h : isCmdWrite a w = true) : acceptedAccess maxPix a w.bytes := by
  simp only [isCmdWrite, Bool.and_eq_true, decide_eq_true_eq] at h
  obtain ⟨rfl, rfl⟩ := h
  exact acceptedAccess_iff.2 (.inl ⟨rfl, .cmd, rfl⟩)

/-- An access above the registers is no write of `CMD`. -/
theorem isCmdWrite_of_ge (ha : 0x100 ≤ a) : isCmdWrite a w = false := by
  have hne : a ≠ cmdOffset := by
    rintro rfl
    exact absurd ha (by decide)
  simp [isCmdWrite, hne]

end

/-! ## The error response (20_memory.md R69, 60_exceptions.md R237) -/

theorem State.hostRead_response_ne {s t : State} {a : Nat} {w : AccessWidth} (htarget : target s.cfg.maxPix a w ≠ .error)
    (h : s.hostRead a w = .next t) : t.response ≠ .busError := by
  unfold State.hostRead at h
  split at h
  · cases h
    nofun
  · split at h
    · cases h
      nofun
    · cases h
  · contradiction

theorem State.hostStore_response_ne (s : State) {a : Nat} {w : AccessWidth} (v : Word)
    (htarget : target s.cfg.maxPix a w ≠ .error) : (s.hostStore a w v).response ≠ .busError := by
  rcases s.hostStore_cases a w v with ⟨r, -, hstore⟩ | ⟨-, hstore⟩ | ⟨herror, -⟩
  · rw [hstore]
    nofun
  · rw [hstore]
    nofun
  · contradiction

/-- A write of `CMD` that is answered completes normally, also where it is ignored or ends in a fault (10_state.md R28,
60_exceptions.md R233, R234). -/
theorem State.issue_response {s t : State} {c : Word} (h : s.issue c = .next t) : t.response = .writeDone := by
  unfold State.issue at h
  split_ifs at h
  · cases h
    rfl
  · obtain ⟨u, -, rfl⟩ := finishCommand_next.1 h
    rfl

section
variable {s t : State} {a : Nat} {w : AccessWidth} {v : Word} {op : HostOp} (hop : op = .read a w ∨ op = .write a w v)
include hop

/-- An access that is not accepted is answered, and that is all: it is no write of `CMD` either. -/
theorem State.serve_of_not_accepted (hacc : ¬ acceptedAccess s.cfg.maxPix a w.bytes) :
    s.serve op = .next (s.respond .busError) := by
  have htarget := target_eq_error_iff.2 hacc
  rcases hop with rfl | rfl
  · simp only [State.serve, State.hostRead, htarget]
  · rw [State.serve, if_neg fun hcmd => hacc (accepted_of_isCmdWrite hcmd), State.hostStore, htarget]

/-- An accepted access that is answered is answered with its data or with its completion. -/
theorem State.serve_of_accepted (hacc : acceptedAccess s.cfg.maxPix a w.bytes) (h : s.serve op = .next t) :
    t.response ≠ .busError := by
  have htarget : target s.cfg.maxPix a w ≠ .error := fun herror => target_eq_error_iff.1 herror hacc
  rcases hop with rfl | rfl
  · exact State.hostRead_response_ne htarget h
  · simp only [State.serve] at h
    split_ifs at h
    · simp [State.issue_response h]
    · cases h
      exact s.hostStore_response_ne v htarget

end

/-- Settles O15: an access is an error to the port exactly when it is not accepted, and it is served in the state from
which it has been taken. -/
theorem busErrorExactlyWhenNotAccepted : Obligations.BusErrorExactlyWhenNotAccepted := by
  unfold Obligations.BusErrorExactlyWhenNotAccepted
  intro s rest a w v hpending
  obtain ⟨op, hop, hpending⟩ : ∃ op, (op = .read a w ∨ op = .write a w v) ∧ s.pending = op :: rest := by
    rcases hpending with hpending | hpending
    · exact ⟨_, .inl rfl, hpending⟩
    · exact ⟨_, .inr rfl, hpending⟩
  rw [step_of_pending hpending]
  exact ⟨State.serve_of_not_accepted (s := { s with pending := rest }) hop,
    fun hacc t => State.serve_of_accepted (s := { s with pending := rest }) hop hacc⟩

/-! ## Accepted accesses of a memory (20_memory.md R65 to R67) -/

/-- The bytes of a write, lowest address first. -/
theorem AccessWidth.dataBytes_getElem {w : AccessWidth} {v : Word} {k : Nat} (hk : k < (w.dataBytes v).length) :
    (w.dataBytes v)[k] = v.extractLsb' (8 * k) 8 := by
  have hk4 : k < 4 := by
    rw [AccessWidth.dataBytes_length] at hk
    cases w <;> simp only [AccessWidth.bytes] at hk <;> omega
  simp only [AccessWidth.dataBytes, List.getElem_take]
  interval_cases k <;> rfl

/-- Settles O16: the write of a memory is `writeBytes`, whose run of bytes is the data's. -/
theorem hostWriteStoresLittleEndian : Obligations.HostWriteStoresLittleEndian := by
  unfold Obligations.HostWriteStoresLittleEndian
  intro s rest a w v hpending hacc ha
  have hstep : step s = .next { s with
      mem := s.mem.writeBytes a (w.dataBytes v), pending := rest, response := .writeDone } := by
    rw [step_of_pending hpending, State.serve, isCmdWrite_of_ge ha, State.hostStore, target_mem_of_accepted hacc ha]
    rfl
  refine ⟨_, hstep, rfl, fun k hk => ?_, fun x hx => ?_⟩
  · rw [← w.dataBytes_length v] at hk
    rw [Memory.read_writeBytes_inside s.mem a hk, AccessWidth.dataBytes_getElem]
  · exact Memory.read_writeBytes_outside s.mem (by rwa [AccessWidth.dataBytes_length])

/-- A run of bytes is read exactly when each has been written. -/
theorem Memory.readBytes_isSome {m : Memory} {a n : Nat} :
    (m.readBytes a n).isSome ↔ ∀ k < n, (m.read (a + k)).isSome := by
  induction n generalizing a with
  | zero => simp [Memory.readBytes]
  | succ n ih =>
    have hstep : (m.readBytes a (n + 1)).isSome ↔ (m.read a).isSome ∧ (m.readBytes (a + 1) n).isSome := by
      simp only [Memory.readBytes]
      cases m.read a <;> cases m.readBytes (a + 1) n <;> simp
    rw [hstep, ih, Nat.forall_lt_succ_left]
    simp only [Nat.add_zero, Nat.add_assoc, Nat.add_comm 1]

/-- The bits of the data of a read: those of its bytes in address order, and 0 above them. -/
theorem wordOfList_getLsbD (bs : List Byte) (i : Nat) :
    (wordOfList bs).getLsbD i = (decide (i < 32) && (bs.getD (i / 8) 0).getLsbD (i % 8)) := by
  induction bs generalizing i with
  | nil => simp [wordOfList]
  | cons b bs ih =>
    simp only [wordOfList, BitVec.getLsbD_or, BitVec.getLsbD_shiftLeft, BitVec.getLsbD_setWidth, ih]
    by_cases hi : i < 8
    · rw [Nat.div_eq_of_lt hi, Nat.mod_eq_of_lt hi]
      simp [hi]
    · obtain ⟨j, rfl⟩ := Nat.exists_eq_add_of_le (Nat.not_lt.1 hi)
      have hdiv : (8 + j) / 8 = j / 8 + 1 := by omega
      have hhigh : b.getLsbD (8 + j) = false := BitVec.getLsbD_of_ge b _ (Nat.le_add_right 8 j)
      rw [hdiv, hhigh, Nat.add_mod_left, Nat.add_sub_cancel_left]
      by_cases hj : 8 + j < 32
      · simp [hj, show j < 32 by omega]
      · simp [hj]

/-- Byte `k` of the data of a read is byte `k` of the run. -/
theorem extractLsb'_wordOfList {bs : List Byte} (hlen : bs.length ≤ 4) {k : Nat} (hk : k < bs.length) :
    (wordOfList bs).extractLsb' (8 * k) 8 = bs[k] := by
  apply BitVec.eq_of_getLsbD_eq
  intro i hi
  have hdiv : (8 * k + i) / 8 = k := by omega
  have hmod : (8 * k + i) % 8 = i := by omega
  rw [BitVec.getLsbD_extractLsb', wordOfList_getLsbD, hdiv, hmod]
  simp [hi, hk, show 8 * k + i < 32 by omega]

theorem wordOfList_toNat_lt (bs : List Byte) : (wordOfList bs).toNat < 2 ^ (8 * bs.length) := by
  refine Nat.lt_pow_two_of_testBit _ fun i hi => ?_
  have hend : bs.length ≤ i / 8 := by omega
  rw [BitVec.testBit_toNat, wordOfList_getLsbD, List.getD_eq_default _ _ hend]
  simp

/-- Settles O17: the read of a memory is `readBytes`, put together by `wordOfList`. -/
theorem hostReadReturnsLittleEndian : Obligations.HostReadReturnsLittleEndian := by
  unfold Obligations.HostReadReturnsLittleEndian
  intro s rest a w hpending hacc ha
  have hbytes : w.bytes ≤ 4 := by cases w <;> decide
  rw [step_of_pending hpending, State.serve, State.hostRead, target_mem_of_accepted hacc ha]
  constructor
  · intro hwritten
    obtain ⟨bs, hbs⟩ := Option.isSome_iff_exists.1 (Memory.readBytes_isSome.2 hwritten)
    obtain ⟨hlen, hread⟩ := Memory.readBytes_eq_some.1 hbs
    dsimp only
    rw [hbs]
    rw [← hlen] at hbytes ⊢
    refine ⟨wordOfList bs, rfl, wordOfList_toNat_lt bs, fun k hk => ?_⟩
    rw [hread k hk, extractLsb'_wordOfList hbytes hk]
  · rintro ⟨k, hk, hnone⟩
    have hunwritten : s.mem.readBytes a w.bytes = none := by
      rw [← Option.not_isSome_iff_eq_none, Memory.readBytes_isSome]
      intro hwritten
      simpa [hnone] using hwritten k hk
    simp only [hunwritten]

end Sys2Proof.Machine
end

section
/-! PROOFS. The statements of 30_encoding.md: the decoder and the encoder of the command word, the bits a word's format
ignores, the reserved opcodes and the reserved kernel codes. -/

namespace Sys2Proof.Machine

/-! ## The fields of a format (30_encoding.md R91, R93)

A format is a concatenation, so each of its fields is read back after the fields to its right are passed over. -/

/-- Format T is format K with `KSEL` 0. -/
theorem formatT_eq_formatK (op : BitVec 4) (imm8 : Byte) : formatT op imm8 = formatK op 0 imm8 := rfl

section
variable (op ksel : BitVec 4) (imm8 : Byte)

@[simp] theorem opField_formatK : opField (formatK op ksel imm8) = op := BitVec.extractLsb'_append_eq_right

@[simp] theorem kselField_formatK : kselField (formatK op ksel imm8) = ksel :=
  (BitVec.extractLsb'_append_eq_of_le (by decide)).trans BitVec.extractLsb'_append_eq_right

@[simp] theorem imm8Field_formatK : imm8Field (formatK op ksel imm8) = imm8 :=
  (BitVec.extractLsb'_append_eq_of_le (by decide)).trans <|
    (BitVec.extractLsb'_append_eq_of_le (by decide)).trans BitVec.extractLsb'_append_eq_right

end

section
variable (ksel : BitVec 4) (npal : Nat) (preinv : Bool)

@[simp] theorem opField_formatP : opField (formatP ksel npal preinv) = 6 := BitVec.extractLsb'_append_eq_right

@[simp] theorem kselField_formatP : kselField (formatP ksel npal preinv) = ksel :=
  (BitVec.extractLsb'_append_eq_of_le (by decide)).trans BitVec.extractLsb'_append_eq_right

@[simp] theorem npalm1Field_formatP : npalm1Field (formatP ksel npal preinv) = BitVec.ofNat 4 (npal - 1) :=
  (BitVec.extractLsb'_append_eq_of_le (by decide)).trans <|
    (BitVec.extractLsb'_append_eq_of_le (by decide)).trans BitVec.extractLsb'_append_eq_right

@[simp] theorem preinvField_formatP : preinvField (formatP ksel npal preinv) = preinv := by
  simp only [preinvField, formatP, BitVec.getLsbD_append]
  simp

end

/-- The admitted palette sizes are those that `NPALM1` holds (R94). -/
theorem npalOk_iff {npal : Nat} : npalOk npal = true ↔ 1 ≤ npal ∧ npal ≤ 16 := by simp [npalOk]

/-! ## Decoding a format -/

theorem decodeWord_formatT_two (thr : Byte) : decodeWord (formatT 2 thr) = .qthr thr := by
  simp [decodeWord, formatT_eq_formatK]

theorem decodeWord_formatT_three (thr : Byte) : decodeWord (formatT 3 thr) = .qord thr := by
  simp [decodeWord, formatT_eq_formatK]

theorem decodeWord_formatK_four (ksel : BitVec 4) (thr : Byte) : decodeWord (formatK 4 ksel thr) = qedbOf ksel thr := by
  simp [decodeWord]

theorem decodeWord_formatK_five (ksel : BitVec 4) (levels : Byte) :
    decodeWord (formatK 5 ksel levels) = qednOf ksel levels := by
  simp [decodeWord]

theorem decodeWord_formatP (ksel : BitVec 4) {npal : Nat} (preinv : Bool) (h : npalOk npal = true) :
    decodeWord (formatP ksel npal preinv) = qpalOf ksel npal preinv := by
  obtain ⟨hlow, hhigh⟩ := npalOk_iff.1 h
  have hnpal : (npal - 1) % 16 + 1 = npal := by omega
  simp [decodeWord, hnpal]

/-- A well-formed command is what its command word decodes to. -/
theorem decodeWord_encode {i : Instr} (h : i.wf = true) : decodeWord (encode i) = i := by
  cases i with
  | nop | tone | pack2 | pack3 | reservedOp7 | reservedOp12 | reservedOp13 | reservedOp14 | reservedOp15 => rfl
  | qthr thr => exact decodeWord_formatT_two thr
  | qord thr => exact decodeWord_formatT_three thr
  | qedbFs | qedbJjn | qedbK2 | qedbK3 | qedbK4 | qedbK5 | qedbK6 | qedbK7 | qedbK8 | qedbK9 | qedbK10 | qedbK11
  | qedbK12 | qedbK13 | qedbK14 | qedbK15 => exact decodeWord_formatK_four _ _
  | qednFs | qednJjn | qednK2 | qednK3 | qednK4 | qednK5 | qednK6 | qednK7 | qednK8 | qednK9 | qednK10 | qednK11
  | qednK12 | qednK13 | qednK14 | qednK15 => exact decodeWord_formatK_five _ _
  | qpalNone | qpalFs | qpalFfs | qpalJarvis | qpalStucki | qpalAtkinson | qpalBurkes | qpalSierra | qpalTwosierra
  | qpalSierralite | qpalK10 | qpalK11 | qpalK12 | qpalK13 | qpalK14 | qpalK15 => exact decodeWord_formatP _ _ h
  | pack1 inv | pack4 inv => cases inv <;> rfl

/-- Settles O2: the bytes of a word decode to what the word decodes to, and that is the command encoded. -/
theorem decodeInvertsEncode : Obligations.DecodeInvertsEncode := by
  unfold Obligations.DecodeInvertsEncode
  intro i rest h
  rw [encodeBytes, decode_wordBytes, decodeWord_encode h]

/-! ## Re-encoding a word (30_encoding.md R98)

Each format, filled with the fields of a word, is the word without the bits the format does not read. -/

section
variable (c : Word)

theorem formatN_fields : formatN (opField c) = c &&& 0x0000000F#32 := by
  refine BitVec.eq_of_getLsbD_eq fun i hi => ?_
  simp only [formatN, opField, BitVec.getLsbD_append, BitVec.getLsbD_extractLsb', BitVec.getLsbD_and]
  interval_cases i <;> simp

theorem formatT_fields : formatT (opField c) (imm8Field c) = c &&& 0x0000FF0F#32 := by
  refine BitVec.eq_of_getLsbD_eq fun i hi => ?_
  simp only [formatT, opField, imm8Field, BitVec.getLsbD_append, BitVec.getLsbD_extractLsb', BitVec.getLsbD_and]
  interval_cases i <;> simp

theorem formatK_fields : formatK (opField c) (kselField c) (imm8Field c) = c &&& 0x0000FFFF#32 := by
  refine BitVec.eq_of_getLsbD_eq fun i hi => ?_
  simp only [formatK, opField, kselField, imm8Field, BitVec.getLsbD_append, BitVec.getLsbD_extractLsb',
    BitVec.getLsbD_and]
  interval_cases i <;> simp

theorem formatI_fields : formatI (opField c) (invField c) = c &&& 0x0001000F#32 := by
  refine BitVec.eq_of_getLsbD_eq fun i hi => ?_
  simp only [formatI, opField, invField, BitVec.getLsbD_append, BitVec.getLsbD_extractLsb', BitVec.getLsbD_and]
  interval_cases i <;> simp

end

/-- Format P has its `OP` written in. -/
theorem formatP_fields {c : Word} (h : opField c = 6) :
    formatP (kselField c) ((npalm1Field c).toNat + 1) (preinvField c) = c &&& 0x00020FFF#32 := by
  refine BitVec.eq_of_getLsbD_eq fun i hi => ?_
  rw [formatP, show (6#4) = opField c from h.symm, Nat.add_sub_cancel, BitVec.ofNat_toNat, BitVec.setWidth_eq]
  simp only [opField, kselField, npalm1Field, preinvField, BitVec.getLsbD_append, BitVec.getLsbD_extractLsb',
    BitVec.getLsbD_and]
  interval_cases i <;> simp

/-! ## The families of kernel codes -/

section
variable (ksel : BitVec 4)

@[simp] theorem encode_qedbOf (thr : Byte) : encode (qedbOf ksel thr) = formatK 4 ksel thr := by
  obtain ⟨⟨code, hcode⟩⟩ := ksel
  interval_cases code <;> rfl

@[simp] theorem encode_qednOf (levels : Byte) : encode (qednOf ksel levels) = formatK 5 ksel levels := by
  obtain ⟨⟨code, hcode⟩⟩ := ksel
  interval_cases code <;> rfl

@[simp] theorem encode_qpalOf (npal : Nat) (preinv : Bool) :
    encode (qpalOf ksel npal preinv) = formatP ksel npal preinv := by
  obtain ⟨⟨code, hcode⟩⟩ := ksel
  interval_cases code <;> rfl

theorem wf_qedbOf (thr : Byte) : (qedbOf ksel thr).wf = true := by
  unfold qedbOf
  split <;> rfl

theorem wf_qednOf (levels : Byte) : (qednOf ksel levels).wf = true := by
  unfold qednOf
  split <;> rfl

theorem wf_qpalOf (npal : Nat) (preinv : Bool) : (qpalOf ksel npal preinv).wf = npalOk npal := by
  unfold qpalOf
  split <;> rfl

end

/-! ## Every word (30_encoding.md R98, R102) -/

/-- Every word decodes to a well-formed command: `NPALM1` holds no size that is not admitted. -/
theorem wf_decodeWord (c : Word) : (decodeWord c).wf = true := by
  have hnpal : npalOk ((npalm1Field c).toNat + 1) = true := npalOk_iff.2 ⟨by omega, (npalm1Field c).isLt⟩
  unfold decodeWord
  split
  -- `OP` 4, 5 and 6: the families of kernel codes
  case h_5 => exact wf_qedbOf _ _
  case h_6 => exact wf_qednOf _ _
  case h_7 => exact (wf_qpalOf _ _ _).trans hnpal
  all_goals rfl

/-- The opcodes by their formats: N, T, K, P and I (R93). -/
theorem opcode_formats (op : BitVec 4) :
    op ∈ [0, 1, 7, 9, 10, 12, 13, 14, 15] ∨ op ∈ [2, 3] ∨ op ∈ [4, 5] ∨ op = 6 ∨ op ∈ [8, 11] := by
  revert op
  decide

/-- Encoding what a word decodes to fills the word's format with the word's fields. -/
theorem encode_decodeWord (c : Word) : encode (decodeWord c) = c &&& readMask (opField c) := by
  generalize hop : opField c = op
  rcases opcode_formats op with hformat | hformat | hformat | rfl | hformat
  · have hfields := formatN_fields c
    fin_cases hformat <;> simpa [decodeWord, hop, encode, readMask] using hfields
  · have hfields := formatT_fields c
    fin_cases hformat <;> simpa [decodeWord, hop, encode, readMask] using hfields
  · have hfields := formatK_fields c
    fin_cases hformat <;> simpa [decodeWord, hop, readMask] using hfields
  · simpa [decodeWord, hop, readMask] using formatP_fields hop
  · have hfields := formatI_fields c
    fin_cases hformat <;> simpa [decodeWord, hop, encode, readMask] using hfields

/-- Settles O4: the two facts above. -/
theorem reencodingClearsIgnoredBits : Obligations.ReencodingClearsIgnoredBits := by
  unfold Obligations.ReencodingClearsIgnoredBits
  exact fun c => ⟨wf_decodeWord c, encode_decodeWord c⟩

/-- A word decodes to the same command as the word without its ignored bits. -/
theorem decodeWord_and_readMask (c : Word) : decodeWord (c &&& readMask (opField c)) = decodeWord c := by
  rw [← encode_decodeWord, decodeWord_encode (wf_decodeWord c)]

/-- Settles O3: both words decode to what their common bits decode to. -/
theorem ignoredBitsDoNotMatter : Obligations.IgnoredBitsDoNotMatter := by
  unfold Obligations.IgnoredBitsDoNotMatter
  intro c c' hop hbits
  calc decodeWord c
    _ = decodeWord (c &&& readMask (opField c)) := (decodeWord_and_readMask c).symm
    _ = decodeWord (c' &&& readMask (opField c')) := by rw [hbits, hop]
    _ = decodeWord c' := decodeWord_and_readMask c'

/-! ## The words the spec writes out (30_encoding.md R100) -/

/-- Settles O1: each of the words is run through the decoder. -/
theorem specWordsDecode : Obligations.SpecWordsDecode := by
  unfold Obligations.SpecWordsDecode
  exact ⟨rfl, rfl, rfl⟩

/-! ## Reserved opcodes (30_encoding.md R97) -/

theorem exec_of_mem_reservedCommands {i : Instr} (h : i ∈ reservedCommands) (s : State) :
    exec i s = .next s.setIllop := by
  fin_cases h <;> rfl

theorem decodeWord_mem_reservedCommands {c : Word} (h : opField c ∈ [7, 12, 13, 14, 15]) :
    decodeWord c ∈ reservedCommands := by
  generalize hop : opField c = op at h
  fin_cases h <;> simp [decodeWord, hop, reservedCommands]

/-- Settles O8: a word with a reserved opcode is a reserved command, and its `CMD` write runs it. -/
theorem reservedOpcodeSetsIllopOnly : Obligations.ReservedOpcodeSetsIllopOnly := by
  unfold Obligations.ReservedOpcodeSetsIllopOnly
  intro s c rest
  refine ⟨fun i hi => exec_of_mem_reservedCommands hi s, fun hpending hfault hop => ?_⟩
  rw [step_cmdWrite_of_no_fault hpending hfault, fetchCommand_eq,
    exec_of_mem_reservedCommands (decodeWord_mem_reservedCommands hop)]
  rfl

/-! ## Reserved kernel codes (30_encoding.md R95, R96) -/

section
variable {ksel : BitVec 4}

theorem exec_qedbOf_reserved (h : 2 ≤ ksel.toNat) (thr : Byte) (s : State) :
    exec (qedbOf ksel thr) s = s.qedb .floydSteinberg thr := by
  obtain ⟨⟨code, hcode⟩⟩ := ksel
  change 2 ≤ code at h
  interval_cases code <;> rfl

theorem exec_qednOf_reserved (h : 2 ≤ ksel.toNat) (levels : Byte) (s : State) :
    exec (qednOf ksel levels) s = s.qedn .floydSteinberg levels := by
  obtain ⟨⟨code, hcode⟩⟩ := ksel
  change 2 ≤ code at h
  interval_cases code <;> rfl

theorem exec_qpalOf_reserved (h : 10 ≤ ksel.toNat) (npal : Nat) (preinv : Bool) (s : State) :
    exec (qpalOf ksel npal preinv) s = s.qpal .floydSteinberg npal preinv := by
  obtain ⟨⟨code, hcode⟩⟩ := ksel
  change 10 ≤ code at h
  interval_cases code <;> rfl

end

/-- Settles O25: the Floyd-Steinberg commands are these same operations. -/
theorem reservedKernelCodesAreFloydSteinberg : Obligations.ReservedKernelCodesAreFloydSteinberg := by
  unfold Obligations.ReservedKernelCodesAreFloydSteinberg
  exact fun ksel imm npal preinv s =>
    ⟨fun h => ⟨exec_qedbOf_reserved h imm s, exec_qednOf_reserved h imm s⟩,
      fun h => exec_qpalOf_reserved h npal preinv s⟩

end Sys2Proof.Machine
end

section
/-! PROOFS. The statements of 40_tone_reducer.md: the luminance formula in both arithmetics, and the command `TONE`. -/

namespace Sys2Proof.Machine

/-! ## The luminance formula (40_tone_reducer.md R120) -/

/-- The integer `n` with `n - 1/2 <= (2126 R + 7152 G + 722 B) / 10000 < n + 1/2`. -/
theorem lumaExact_nearest (p : Rgb) :
    20000 * lumaExact p ≤ 2 * (2126 * p.r.toNat + 7152 * p.g.toNat + 722 * p.b.toNat) + 10000 ∧
      2 * (2126 * p.r.toNat + 7152 * p.g.toNat + 722 * p.b.toNat) + 10000 < 20000 * (lumaExact p + 1) := by
  unfold lumaExact
  omega

/-- The coefficients add up to 10000, so the formula's value is at most 255. -/
theorem lumaExact_le (p : Rgb) : lumaExact p ≤ 255 := by
  obtain ⟨hlow, -⟩ := lumaExact_nearest p
  have hr := p.r.isLt
  have hg := p.g.isLt
  have hb := p.b.isLt
  omega

/-- For the same reason the formula's value at a gray pixel is the channel itself. -/
theorem lumaExact_gray {p : Rgb} (hrg : p.r = p.g) (hgb : p.g = p.b) : lumaExact p = p.r.toNat := by
  obtain ⟨hlow, hhigh⟩ := lumaExact_nearest p
  rw [← hgb, ← hrg] at hlow hhigh
  omega

/-- Settles O27: the interval is `lumaExact_nearest`, and the bound and the gray pixels follow from it. -/
theorem luminanceIsTheNearestInteger : Obligations.LuminanceIsTheNearestInteger := by
  unfold Obligations.LuminanceIsTheNearestInteger
  intro p
  obtain ⟨hlow, hhigh⟩ := lumaExact_nearest p
  exact ⟨lumaExact_le p, hlow, hhigh, lumaExact_gray⟩

section
variable {cfg : Config}

theorem luma_of_exact (h : cfg.toneArith = .exact) (p : Rgb) : luma cfg p = BitVec.ofNat 8 (lumaExact p) := by
  rw [luma, h]

theorem luma_of_float (h : cfg.toneArith = .float) (p : Rgb) : luma cfg p = BitVec.ofInt 8 (lumaFloat cfg.fmt p) := by
  rw [luma, h]

end

/-! ## The command `TONE` (40_tone_reducer.md R121) -/

/-- A word with `OP` 1 is `TONE`, whatever its other bits (30_encoding.md R92, R98). -/
theorem decodeWord_of_opField_one {c : Word} (h : opField c = 1) : decodeWord c = .tone := by
  simp [decodeWord, h]

/-- An element of a one-byte memory reads as its byte of a run written from the first element on. -/
theorem Memory.read_writeElems_inside (m : Memory) (w : Window) {bs : List Byte} {i : Nat} (h : i < bs.length) :
    (m.writeBytes (elemAddr w 0) bs).read (elemAddr w i) = some bs[i] :=
  Memory.read_writeBytes_inside m (elemAddr w 0) h

theorem Memory.rgbAt_isSome {m : Memory} {w : Window} {i : Nat} (h : ∀ c < 3, (m.read (chanAddr w i c)).isSome) :
    (m.rgbAt w i).isSome := by
  obtain ⟨r, hr⟩ := Option.isSome_iff_exists.1 (h 0 (by decide))
  obtain ⟨g, hg⟩ := Option.isSome_iff_exists.1 (h 1 (by decide))
  obtain ⟨b, hb⟩ := Option.isSome_iff_exists.1 (h 2 (by decide))
  exact Option.isSome_iff_exists.2 ⟨⟨r, g, b⟩, Memory.rgbAt_eq_some.2 ⟨hr, hg, hb⟩⟩

/-- Pixels whose three colour channels have been written can be read. -/
theorem State.srcRgbGrid_of_written {s : State} {n : Nat} (h : s.written (chanAddrs .src n 3)) :
    ∃ src, s.mem.srcRgbGrid n = some src :=
  Option.isSome_iff_exists.1 <| gather_isSome.2 fun i hi =>
    Memory.rgbAt_isSome fun c hc => h _ (mem_chanAddrs.2 ⟨i, List.mem_range.1 hi, c, hc, rfl⟩)

/-- `TONE` answers, and each sample is the `luma` of its pixel, in the arithmetic of the parameters. -/
theorem exec_tone_next {s : State} (hfits : s.pixels ≤ s.cfg.maxPix) (hwritten : s.written (chanAddrs .src s.pixels 3)) :
    ∃ t, exec .tone s = .next t ∧ ∀ i < s.pixels, ∀ p, s.mem.rgbAt .src i = some p →
      t.mem.read (elemAddr .gray i) = some (luma s.cfg p) := by
  obtain ⟨src, hsrc⟩ := State.srcRgbGrid_of_written hwritten
  obtain ⟨hlen, hpixel⟩ := gather_range.1 hsrc
  refine ⟨_, State.withInput_next.2 ⟨s.gridFits_iff.2 hfits, src, hsrc, rfl⟩, fun i hi p hp => ?_⟩
  have hi' : i < src.length := hlen ▸ hi
  have hp' : src[i] = p := Option.some.inj ((hpixel i hi').symm.trans hp)
  rw [Memory.read_writeElems_inside _ _ (by simpa using hi'), List.getElem_map, hp']

/-- The same channel by channel, with the frame of the command. -/
theorem exec_tone_luma {s : State} (hfits : s.pixels ≤ s.cfg.maxPix) (hwritten : s.written (chanAddrs .src s.pixels 3)) :
    ∃ t, exec .tone s = .next t ∧ sameButMemory s t ∧ sameOutside (elemAddrs .gray s.pixels) s t ∧
      ∀ i < s.pixels, ∀ r g b, s.mem.read (chanAddr .src i 0) = some r → s.mem.read (chanAddr .src i 1) = some g →
        s.mem.read (chanAddr .src i 2) = some b → t.mem.read (elemAddr .gray i) = some (luma s.cfg ⟨r, g, b⟩) := by
  obtain ⟨t, ht, hluma⟩ := exec_tone_next hfits hwritten
  obtain ⟨houtside, -, hregs⟩ := commandsWriteOnlyTheirOutputs .tone s t ht
  exact ⟨t, ht, hregs, houtside, fun i hi r g b hr hg hb => hluma i hi _ (Memory.rgbAt_eq_some.2 ⟨hr, hg, hb⟩)⟩

/-- Settles O26: each sample is the `luma` of its pixel, which is `lumaExact` in EDQ's arithmetic. -/
theorem toneWritesLuminance : Obligations.ToneWritesLuminance := by
  unfold Obligations.ToneWritesLuminance
  refine ⟨fun c => decodeWord_of_opField_one, fun s _ hfits hwritten => ?_⟩
  obtain ⟨t, ht, hregs, houtside, hluma⟩ := exec_tone_luma hfits hwritten
  refine ⟨t, ht, hregs, houtside, fun harith i hi r g b hr hg hb => ?_⟩
  rw [hluma i hi r g b hr hg hb, luma_of_exact harith, lumaExact]

/-- Settles O53: in the other arithmetic the `luma` of a pixel is `lumaFloat`. -/
theorem toneInTheOtherArithmetic : Obligations.ToneInTheOtherArithmetic := by
  unfold Obligations.ToneInTheOtherArithmetic
  intro s _ hfits hwritten harith
  obtain ⟨t, ht, hregs, houtside, hluma⟩ := exec_tone_luma hfits hwritten
  refine ⟨t, ht, hregs, houtside, fun i hi r g b hr hg hb cr cg cb hcr hcg hcb => ?_⟩
  rw [hluma i hi r g b hr hg hb, luma_of_float harith, hcr, hcg, hcb, lumaFloat]

end Sys2Proof.Machine
end

section
/-! PROOFS. The statements of 41_stateless_quantizers.md: what a pixelwise quantizer leaves in `IDX` and `PREV`, and the
commands `QTHR` and `QORD`. -/

namespace Sys2Proof.Machine

/-! ## The pixels of a gray quantizer (41_stateless_quantizers.md R130) -/

/-- Pixel `i` holds what a quantizer emits for it. -/
def State.holdsPixel (s : State) (i : Nat) (o : PixelOut) : Prop :=
  s.pixelIs i o.index o.preview.rgb.r o.preview.rgb.g o.preview.rgb.b o.preview.a

theorem State.holdsPixel_light {s : State} {i : Nat} :
    s.holdsPixel i (binaryOut true) ↔ s.pixelIs i 1 255 255 255 255 := Iff.rfl

theorem State.holdsPixel_dark {s : State} {i : Nat} :
    s.holdsPixel i (binaryOut false) ↔ s.pixelIs i 0 0 0 0 255 := Iff.rfl

/-- A pixel that a pass emits once holds what the pass emits for it: an admitted grid is small enough that `IDX` and
`PREV` do not meet. -/
theorem State.holdsPixel_emitAll {s : State} {outs : List (Nat × PixelOut)} {i : Nat} {o : PixelOut}
    (hwf : s.cfg.wf = true) (hfits : s.pixels ≤ s.cfg.maxPix) (hstays : staysInGrid s.pixels outs)
    (hone : (outs.map Prod.fst).Nodup) (hmem : (i, o) ∈ outs) :
    State.holdsPixel { s with mem := s.mem.emitAll outs } i o := by
  refine Memory.read_emitAll_pixel s.mem hmem hone fun p hp => ?_
  have hin := hstays p.1 (List.mem_map_of_mem hp)
  have hmax := Config.maxPix_le hwf
  omega

/-- Gray samples that have been written can be read. -/
theorem State.grayGrid_of_written {s : State} {n : Nat} (h : s.written (elemAddrs .gray n)) :
    ∃ gray, s.mem.grayGrid n = some gray :=
  Option.isSome_iff_exists.1 <| gather_isSome.2 fun i hi => h _ (mem_elemAddrs.2 ⟨i, List.mem_range.1 hi, rfl⟩)

theorem mem_pixelwise (light : Nat → Byte → Bool) {gray : List Byte} {i : Nat} (hi : i < gray.length) :
    (i, binaryOut (light i gray[i])) ∈ pixelwise light gray :=
  List.mem_mapIdx.2 ⟨i, hi, rfl⟩

theorem pixelwise_nodup (light : Nat → Byte → Bool) (gray : List Byte) :
    ((pixelwise light gray).map Prod.fst).Nodup := by
  rw [pixelwise_indices]
  exact List.nodup_range

/-- A pixelwise quantizer answers, and each pixel is light as `light` says of its index and its sample. -/
theorem State.quantizeGray_pixelwise {s : State} (light : Nat → Byte → Bool) (hwf : s.cfg.wf = true)
    (hfits : s.pixels ≤ s.cfg.maxPix) (hwritten : s.written (elemAddrs .gray s.pixels)) :
    ∃ t, s.quantizeGray (pixelwise light) = .next t ∧
      ∀ i < s.pixels, ∀ v, s.mem.read (elemAddr .gray i) = some v → t.holdsPixel i (binaryOut (light i v)) := by
  obtain ⟨gray, hgray⟩ := State.grayGrid_of_written hwritten
  obtain ⟨hlen, hsample⟩ := gather_range.1 hgray
  refine ⟨_, State.quantizeGray_next.2 ⟨s.gridFits_iff.2 hfits, gray, hgray, rfl⟩, fun i hi v hv => ?_⟩
  have hi' : i < gray.length := hlen ▸ hi
  obtain rfl : gray[i] = v := Option.some.inj ((hsample i hi').symm.trans hv)
  exact State.holdsPixel_emitAll hwf hfits (pixelwise_stays light hlen) (pixelwise_nodup light gray)
    (mem_pixelwise light hi')

/-- A command of a gray quantizer changes the bytes of its pixels alone. -/
theorem exec_gray_frame {i : Instr} {s t : State} {bound : Nat} (hkind : commandKind i = .gray bound)
    (h : exec i s = .next t) : sameButMemory s t ∧ sameOutside (pixelAddrs s.pixels) s t := by
  obtain ⟨houtside, -, hregs⟩ := commandsWriteOnlyTheirOutputs i s t h
  rw [hkind] at houtside hregs
  exact ⟨hregs, houtside⟩

/-! ## `QTHR` (41_stateless_quantizers.md R131, R135) -/

/-- A word with `OP` 2 is `QTHR`, whatever its other bits outside `THR` (30_encoding.md R92, R98). -/
theorem decodeWord_of_opField_two {c : Word} (h : opField c = 2) : decodeWord c = .qthr (imm8Field c) := by
  simp [decodeWord, h]

theorem thresholdLight_of_lt {thr v : Byte} (h : thr.toNat < v.toNat) : thresholdLight thr v = true :=
  decide_eq_true h

theorem thresholdLight_of_le {thr v : Byte} (h : v.toNat ≤ thr.toNat) : thresholdLight thr v = false :=
  decide_eq_false (Nat.not_lt.2 h)

/-- Settles O28: `QTHR` is the pixelwise quantizer of `thresholdLight`. -/
theorem qthrIsAStrictThreshold : Obligations.QthrIsAStrictThreshold := by
  unfold Obligations.QthrIsAStrictThreshold
  refine ⟨fun c => decodeWord_of_opField_two, fun thr s hwf hfits hwritten => ?_⟩
  obtain ⟨t, ht, hpixel⟩ := State.quantizeGray_pixelwise (fun _ v => thresholdLight thr v) hwf hfits hwritten
  have hexec : exec (.qthr thr) s = .next t := ht
  obtain ⟨hregs, houtside⟩ := exec_gray_frame rfl hexec
  refine ⟨t, hexec, hregs, houtside, fun i hi v hv => ⟨fun hlight => ?_, fun hdark => ?_⟩⟩
  · rw [← State.holdsPixel_light, ← thresholdLight_of_lt hlight]
    exact hpixel i hi v hv
  · rw [← State.holdsPixel_dark, ← thresholdLight_of_le hdark]
    exact hpixel i hi v hv

theorem State.pixelIs.red {s : State} {i : Nat} {k r g b a : Byte} (h : s.pixelIs i k r g b a) :
    s.mem.read (chanAddr .prev i 0) = some r := by
  obtain ⟨-, hred, -⟩ := h
  exact hred

/-- Settles O30: `QTHR` makes a sample 0 dark, and a sample 255 light exactly when it exceeds `THR`. -/
theorem qthrIsIdempotentBelow255 : Obligations.QthrIsIdempotentBelow255 := by
  unfold Obligations.QthrIsIdempotentBelow255
  intro thr s hwf hfits hbinary
  have hwritten : s.written (elemAddrs .gray s.pixels) := by
    intro a ha
    obtain ⟨i, hi, rfl⟩ := mem_elemAddrs.1 ha
    rcases hbinary i hi with hv | hv <;> exact Option.isSome_of_eq_some hv
  obtain ⟨t, ht, -, -, hpixel⟩ := qthrIsAStrictThreshold.2 thr s hwf hfits hwritten
  refine ⟨t, ht, fun hthr i hi => ?_, fun hthr i hi => ?_⟩
  · rcases hbinary i hi with hv | hv <;> rw [hv]
    · exact ((hpixel i hi 0 hv).2 (Nat.zero_le _)).red
    · exact ((hpixel i hi 255 hv).1 (Nat.lt_succ_of_le hthr)).red
  · rcases hbinary i hi with hv | hv
    · exact ((hpixel i hi 0 hv).2 (Nat.zero_le _)).red
    · exact ((hpixel i hi 255 hv).2 hthr.ge).red

/-! ## `QORD` (41_stateless_quantizers.md R132, R133) -/

/-- A word with `OP` 3 is `QORD`, whatever its other bits outside `THR` (30_encoding.md R92, R98). -/
theorem decodeWord_of_opField_three {c : Word} (h : opField c = 3) : decodeWord c = .qord (imm8Field c) := by
  simp [decodeWord, h]

/-- The pattern is the matrix of R133, the low bit of the row first. -/
theorem pattern_of_mem {x y p : Nat}
    (h : (y % 2, x % 2, p) ∈ [(0, 0, 0), (0, 1, 128), (1, 0, 192), (1, 1, 64)]) : pattern x y = p := by
  simp only [List.mem_cons, Prod.mk.injEq, List.not_mem_nil, or_false] at h
  rcases h with ⟨hy, hx, rfl⟩ | ⟨hy, hx, rfl⟩ | ⟨hy, hx, rfl⟩ | ⟨hy, hx, rfl⟩ <;> simp [pattern, hy, hx]

/-- A pixel is dark when its comparison agrees with `ORD_DARK_IF_GREATER` (R132). -/
theorem orderedLight_eq_false_iff {cfg : Config} {w x : Nat} {thr v : Byte} (hx : x < w) (y : Nat) :
    orderedLight cfg w thr (y * w + x) v = false ↔
      (3 * pattern x y + thr.toNat < 4 * v.toNat ↔ cfg.ordDarkIfGreater = true) := by
  have hcolumn : (y * w + x) % w = x := Nat.mul_add_mod_of_lt hx
  have hrow : (y * w + x) / w = y := by
    rw [Nat.mul_comm, Nat.mul_add_div (Nat.zero_lt_of_lt hx), Nat.div_eq_of_lt hx, Nat.add_zero]
  rw [orderedLight, hcolumn, hrow, orderedGreater]
  cases cfg.ordDarkIfGreater <;> simp

/-- Settles O29: `QORD` is the pixelwise quantizer of `orderedLight`, which is read at column `x` of row `y`. -/
theorem qordFollowsThePattern : Obligations.QordFollowsThePattern := by
  unfold Obligations.QordFollowsThePattern
  refine ⟨fun c => decodeWord_of_opField_three, fun thr s hwf hfits hwritten => ?_⟩
  obtain ⟨t, ht, hpixel⟩ := State.quantizeGray_pixelwise (orderedLight s.cfg s.gridW thr) hwf hfits hwritten
  have hexec : exec (.qord thr) s = .next t := ht
  obtain ⟨hregs, houtside⟩ := exec_gray_frame rfl hexec
  refine ⟨t, hexec, hregs, houtside, fun y hy x hx v hv p hp => ?_⟩
  have hout := hpixel _ (ScanPos.index_lt (p := ⟨x, y, 1⟩) ⟨hx, hy⟩) v hv
  rw [← pattern_of_mem hp, ← orderedLight_eq_false_iff hx y]
  refine ⟨fun hdark => ?_, fun hlight => ?_⟩
  · rwa [ScanPos.index, hdark, State.holdsPixel_dark] at hout
  · rwa [ScanPos.index, Bool.eq_true_of_not_eq_false hlight, State.holdsPixel_light] at hout

end Sys2Proof.Machine
end

section
/-! PROOFS. The statements of 42_gray_error_diffusion.md: the two scans, where a tap lands and what it does to the working
buffer, the gray diffusion passes seen from the receiving pixel, and the indices the quantizers emit. -/

namespace Sys2Proof.Machine

/-! ## The scans (42_gray_error_diffusion.md R142, R145) -/

/-- Entry `c` of row `y` of a scan whose row `y` goes in direction `dir y`. -/
def scanEntry (dir : Nat → Int) (w y c : Nat) : ScanPos := ⟨if dir y = 1 then c else w - 1 - c, y, dir y⟩

/-- The scan of a `w` by `h` grid, row after row, whose row `y` goes in direction `dir y`. -/
def scanBy (dir : Nat → Int) (w h : Nat) : List ScanPos :=
  (List.range (w * h)).map fun n => scanEntry dir w (n / w) (n % w)

/-- The direction of a row of the serpentine scan. -/
def serpentineDir (y : Nat) : Int := if y % 2 = 0 then 1 else -1

/-- Rows of `w` entries one after another: entry `n` is entry `n mod w` of row `n div w`. -/
theorem flatMap_range_map {α : Type} (f : Nat → Nat → α) (w h : Nat) :
    ((List.range h).flatMap fun y => (List.range w).map (f y)) =
      (List.range (w * h)).map fun n => f (n / w) (n % w) := by
  induction h with
  | zero => rfl
  | succ h ih =>
    rw [List.range_succ, List.flatMap_append, ih, Nat.mul_succ, List.range_add, List.map_append, List.map_map,
      List.flatMap_singleton]
    congr 1
    refine List.map_congr_left fun c hc => ?_
    rw [List.mem_range] at hc
    simp only [Function.comp_apply, Nat.mul_add_mod, Nat.mod_eq_of_lt hc, Nat.mul_add_div (Nat.zero_lt_of_lt hc),
      Nat.div_eq_of_lt hc, Nat.add_zero]

/-- Entry `c` of a row that goes right to left is column `w - 1 - c`. -/
theorem rowBackward_eq (w y : Nat) : rowBackward w y = (List.range w).map fun c => ⟨w - 1 - c, y, -1⟩ := by
  refine List.ext_getElem (by simp [rowBackward]) fun c _ _ => ?_
  simp [rowBackward]

theorem scanRaster_eq (w h : Nat) : scanRaster w h = scanBy (fun _ => 1) w h :=
  flatMap_range_map (scanEntry (fun _ => 1) w) w h

theorem scanSerpentine_eq (w h : Nat) : scanSerpentine w h = scanBy serpentineDir w h := by
  have hrow : ∀ y, (if y % 2 = 0 then rowForward w y else rowBackward w y) =
      (List.range w).map (scanEntry serpentineDir w y) := by
    intro y
    by_cases hy : y % 2 = 0
    · simp [hy, scanEntry, serpentineDir, rowForward]
    · simp [hy, scanEntry, serpentineDir, rowBackward_eq]
  simp only [scanSerpentine, hrow]
  exact flatMap_range_map (scanEntry serpentineDir w) w h

theorem serpentineDir_cases (y : Nat) : serpentineDir y = 1 ∨ serpentineDir y = -1 := by
  unfold serpentineDir
  split_ifs <;> simp

@[simp] theorem scanBy_length (dir : Nat → Int) (w h : Nat) : (scanBy dir w h).length = w * h := by
  simp [scanBy]

/-- Entry `c` of row `y`. -/
theorem scanBy_getElem? (dir : Nat → Int) {w h y c : Nat} (hy : y < h) (hc : c < w) :
    (scanBy dir w h)[y * w + c]? = some (scanEntry dir w y c) := by
  have hn : y * w + c < w * h := ScanPos.index_lt (p := ⟨c, y, 1⟩) ⟨hc, hy⟩
  have hmod : (y * w + c) % w = c := Nat.mul_add_mod_of_lt hc
  have hdiv : (y * w + c) / w = y := by
    rw [Nat.mul_comm, Nat.mul_add_div (Nat.zero_lt_of_lt hc), Nat.div_eq_of_lt hc, Nat.add_zero]
  simp [scanBy, hn, hmod, hdiv]

theorem scanRaster_indices (w h : Nat) : (scanRaster w h).map (ScanPos.index w) = List.range (w * h) := by
  rw [scanRaster_eq, scanBy, List.map_map]
  refine (List.map_congr_left fun n _ => ?_).trans (List.map_id _)
  simp [ScanPos.index, scanEntry, Nat.div_add_mod']

/-- The serpentine scan visits as many positions as the grid has pixels, and each pixel: so each once. -/
theorem scanSerpentine_indices (w h : Nat) :
    ((scanSerpentine w h).map (ScanPos.index w)).Perm (List.range (w * h)) := by
  have hsub : List.range (w * h) ⊆ (scanSerpentine w h).map (ScanPos.index w) :=
    fun i hi => mem_scanSerpentine_index (List.mem_range.1 hi)
  refine ((List.subperm_of_subset List.nodup_range hsub).perm_of_length_le ?_).symm
  simp [scanSerpentine_eq]

/-- Settles O37: both scans are `scanBy`, whose entries are known by number. -/
theorem scansVisitEachPixelOnceInOrder : Obligations.ScansVisitEachPixelOnceInOrder := by
  unfold Obligations.ScansVisitEachPixelOnceInOrder
  intro w h
  refine ⟨?_, ?_, fun y hy c hc => ?_, fun y hy c hc => ?_, scanRaster_indices w h, scanSerpentine_indices w h⟩
  · rw [scanRaster_eq, scanBy_length]
  · rw [scanSerpentine_eq, scanBy_length]
  · rw [scanRaster_eq, scanBy_getElem? _ hy hc]
    rfl
  · rw [scanSerpentine_eq, scanBy_getElem? _ hy hc, scanEntry, serpentineDir]
    split_ifs <;> simp_all

/-! ## Where a tap lands (42_gray_error_diffusion.md R141, R145) -/

theorem tapTarget_eq_none {w h : Nat} {p : ScanPos} {t : Tap}
    (hout : (p.x : Int) + p.dir * t.dx < 0 ∨ (w : Int) ≤ p.x + p.dir * t.dx ∨ h ≤ p.y + t.dy) :
    tapTarget w h p t = none := by
  simp only [tapTarget]
  exact if_neg (by omega)

/-- A tap that leaves the grid is dropped. -/
theorem applyTap_of_none {w h : Nat} {p : ScanPos} {t : Tap} (hnone : tapTarget w h p t = none) (fmt : FFormat)
    (k : Kernel) (err : FVal) (wb : List FVal) : applyTap fmt k w h p err wb t = wb := by
  simp only [applyTap, hnone]

/-- Settles O38: the column and the row of `tapTarget`, with `dir = -1` and `dx = 1` put in for the mirrored tap. -/
theorem tapsAreMirroredOnRightToLeftRows : Obligations.TapsAreMirroredOnRightToLeftRows := by
  unfold Obligations.TapsAreMirroredOnRightToLeftRows
  intro w h pos tap
  refine ⟨fun col hcol hw hh => ?_, fun hout => ?_, fun hdir hdx hdy hx hy => ⟨fun hpos => ?_, fun hzero => ?_⟩⟩
  · exact tapTarget_eq_some.2 ⟨by omega, by rw [← hcol, Int.toNat_natCast]⟩
  · exact ⟨tapTarget_eq_none hout, applyTap_of_none (tapTarget_eq_none hout)⟩
  · have hcol : (pos.x : Int) + pos.dir * tap.dx = ((pos.x - 1 : Nat) : Int) := by
      rw [hdir, hdx]
      omega
    exact tapTarget_eq_some.2 ⟨by omega, by rw [hcol, hdy, Int.toNat_natCast, Nat.add_zero]⟩
  · refine tapTarget_eq_none (.inl ?_)
    rw [hdir, hdx, hzero]
    decide

/-- A pixel's row and column are known from its index. -/
theorem rowColumn_unique {w y x y' x' : Nat} (hx : x < w) (hx' : x' < w) (h : y * w + x = y' * w + x') :
    y = y' ∧ x = x' := by
  have hmod := congrArg (· % w) h
  have hdiv := congrArg (· / w) h
  simp only [Nat.mul_add_mod_of_lt, hx, hx'] at hmod
  simp only [Nat.mul_comm _ w, Nat.mul_add_div (Nat.zero_lt_of_lt hx), Nat.div_eq_of_lt hx, Nat.div_eq_of_lt hx',
    Nat.add_zero] at hdiv
  exact ⟨hdiv, hmod⟩

/-- The offsets of a tap are known from where it lands. -/
theorem offsets_of_tapTarget {w h j : Nat} {p : ScanPos} {t t' : Tap} (hdir : p.dir = 1 ∨ p.dir = -1)
    (ht : tapTarget w h p t = some j) (ht' : tapTarget w h p t' = some j) : (t.dx, t.dy) = (t'.dx, t'.dy) := by
  obtain ⟨⟨hlow, hhigh, -⟩, hj⟩ := tapTarget_eq_some.1 ht
  obtain ⟨⟨hlow', hhigh', -⟩, hj'⟩ := tapTarget_eq_some.1 ht'
  obtain ⟨hrow, hcol⟩ := rowColumn_unique (by omega) (by omega) (hj.symm.trans hj')
  have hdx : p.dir * t.dx = p.dir * t'.dx := by omega
  have hdx' : t.dx = t'.dx := by
    rcases hdir with hd | hd <;> rw [hd] at hdx <;> omega
  exact Prod.ext hdx' (by simpa using hrow)

/-! ## What a kernel of the required shape does to one element (42_gray_error_diffusion.md R141) -/

/-- The shape `Kernel.wf` requires, in words. -/
theorem Kernel.wf_iff {k : Kernel} :
    k.wf = true ↔ 0 < k.div ∧ (∀ t ∈ k.taps, 0 < t.dy ∨ 0 < t.dx) ∧ (k.taps.map fun t => (t.dx, t.dy)).Nodup := by
  simp [Kernel.wf, and_assoc]

/-- The kernels of an admitted configuration have the required shape. -/
theorem Config.kernel_wf {c : Config} (hc : c.wf = true) (kernel : KernelId) : (c.kernels.get kernel).wf = true := by
  simp only [Config.wf, KernelTable.wf, Bool.and_eq_true] at hc
  cases kernel <;> simp only [KernelTable.get, hc]

/-- The taps of the pixel at `p` that land on element `j`, in the kernel's order. -/
def tapsOnto (k : Kernel) (w h : Nat) (p : ScanPos) (j : Nat) : List Tap :=
  k.taps.filter fun t => decide (tapTarget w h p t = some j)

theorem mem_tapsOnto {k : Kernel} {w h j : Nat} {p : ScanPos} {t : Tap} :
    t ∈ tapsOnto k w h p j ↔ t ∈ k.taps ∧ tapTarget w h p t = some j := by
  simp [tapsOnto]

/-- Diffusion seen from the receiving element: the taps that land on it, one after another. -/
theorem diffuse_getElem? (fmt : FFormat) (k : Kernel) (w h : Nat) (p : ScanPos) (err : FVal) (wb : List FVal)
    (j : Nat) :
    (diffuse fmt k w h p err wb)[j]? =
      wb[j]?.map fun v => (tapsOnto k w h p j).foldl (fun v t => receive fmt k err t v) v := by
  simp only [diffuse, tapsOnto]
  generalize k.taps = taps
  induction taps generalizing wb with
  | nil => simp
  | cons t taps ih =>
    rw [List.foldl_cons, ih, applyTap_getElem?, List.filter_cons]
    by_cases ht : tapTarget w h p t = some j
    · simp [ht, Function.comp_def]
    · simp [ht]

/-- No two taps of a kernel of the required shape land on one element. -/
theorem tapsOnto_eq_singleton {k : Kernel} {w h j : Nat} {p : ScanPos} {t : Tap} (hk : k.wf = true)
    (hdir : p.dir = 1 ∨ p.dir = -1) (ht : t ∈ k.taps) (hland : tapTarget w h p t = some j) :
    tapsOnto k w h p j = [t] := by
  obtain ⟨-, -, hdistinct⟩ := Kernel.wf_iff.1 hk
  have hnodup : (tapsOnto k w h p j).Nodup := (List.Nodup.of_map _ hdistinct).filter _
  refine List.perm_singleton.1 ((List.perm_ext_iff_of_nodup hnodup (List.nodup_singleton t)).2 fun t' => ?_)
  rw [mem_tapsOnto, List.mem_singleton]
  constructor
  · rintro ⟨ht', hland'⟩
    exact List.inj_on_of_nodup_map hdistinct ht' ht (offsets_of_tapTarget hdir hland' hland)
  · rintro rfl
    exact ⟨ht, hland⟩

/-- Settles O35: the taps that land on an element are the one tap or none. -/
theorem oneTapAtMostReachesANeighbour : Obligations.OneTapAtMostReachesANeighbour := by
  unfold Obligations.OneTapAtMostReachesANeighbour
  intro fmt k w h pos err wb j hk hdir
  refine ⟨fun tap htap hland => ?_, fun hnone => ?_⟩
  · rw [diffuse_getElem?, tapsOnto_eq_singleton hk hdir htap hland]
    rfl
  · have hempty : tapsOnto k w h pos j = [] :=
      List.eq_nil_iff_forall_not_mem.2 fun t ht => hnone t (mem_tapsOnto.1 ht).1 (mem_tapsOnto.1 ht).2
    rw [diffuse_getElem?, hempty]
    exact Option.map_id'

/-! ## Diffusion is causal (42_gray_error_diffusion.md R149) -/

/-- The number of a position in its scan. -/
def ScanPos.rank (w : Nat) (p : ScanPos) : Nat := p.y * w + if p.dir = 1 then p.x else w - 1 - p.x

section
variable {dir : Nat → Int} {w h : Nat}

theorem mem_scanBy {p : ScanPos} : p ∈ scanBy dir w h ↔ p.x < w ∧ p.y < h ∧ p.dir = dir p.y := by
  constructor
  · intro hp
    obtain ⟨n, hn, rfl⟩ := List.mem_map.1 hp
    obtain ⟨hy, hx, -⟩ := rowColumn_of_index (List.mem_range.1 hn)
    refine ⟨?_, hy, rfl⟩
    simp only [scanEntry]
    split_ifs <;> omega
  · obtain ⟨x, y, d⟩ := p
    rintro ⟨hx : x < w, hy : y < h, rfl : d = dir y⟩
    by_cases hd : dir y = 1
    · refine List.mem_of_getElem? ((scanBy_getElem? dir hy hx).trans ?_)
      rw [scanEntry, if_pos hd]
    · refine List.mem_of_getElem? ((scanBy_getElem? dir hy (c := w - 1 - x) (by omega)).trans ?_)
      rw [scanEntry, if_neg hd, show w - 1 - (w - 1 - x) = x by omega]

theorem scanBy_ranks : (scanBy dir w h).map (ScanPos.rank w) = List.range (w * h) := by
  rw [scanBy, List.map_map]
  refine (List.map_congr_left fun n hn => ?_).trans (List.map_id _)
  obtain ⟨-, hx, heq⟩ := rowColumn_of_index (List.mem_range.1 hn)
  simp only [Function.comp_apply, ScanPos.rank, scanEntry, id]
  split_ifs <;> omega

/-- A scan visits its positions in the order of their numbers. -/
theorem scanBy_sorted : (scanBy dir w h).Pairwise fun p q => p.rank w < q.rank w := by
  rw [← List.pairwise_map, scanBy_ranks]
  exact List.pairwise_lt_range

/-- What has a greater number than a visited position is visited after it. -/
theorem mem_after_of_rank_lt {before after : List ScanPos} {p q : ScanPos}
    (hscan : scanBy dir w h = before ++ p :: after) (hq : q ∈ scanBy dir w h) (hlt : p.rank w < q.rank w) :
    q ∈ after := by
  have hsorted := scanBy_sorted (dir := dir) (w := w) (h := h)
  rw [hscan, List.pairwise_append] at hsorted
  obtain ⟨-, -, hbefore⟩ := hsorted
  rw [hscan, List.mem_append, List.mem_cons] at hq
  rcases hq with hq | rfl | hq
  · exact absurd (hbefore q hq p List.mem_cons_self) (by omega)
  · exact absurd hlt (Nat.lt_irrefl _)
  · exact hq

/-- Row by row: a position of a lower row has the greater number. -/
theorem ScanPos.rank_lt_of_row {p q : ScanPos} (hx : p.x < w) (hy : p.y < q.y) : p.rank w < q.rank w := by
  have hrow : (p.y + 1) * w ≤ q.y * w := Nat.mul_le_mul_right w hy
  rw [Nat.succ_mul] at hrow
  simp only [ScanPos.rank]
  split_ifs <;> omega

/-- A tap that lies on a later row, or ahead on its own row, lands on a position of greater number. -/
theorem exists_rank_lt_of_tapTarget (hdir : ∀ y, dir y = 1 ∨ dir y = -1) {p : ScanPos} {t : Tap} {j : Nat}
    (hp : p ∈ scanBy dir w h) (hahead : 0 < t.dy ∨ 0 < t.dx) (hland : tapTarget w h p t = some j) :
    ∃ q ∈ scanBy dir w h, q.index w = j ∧ p.rank w < q.rank w := by
  obtain ⟨hpx, -, hpdir⟩ := mem_scanBy.1 hp
  obtain ⟨⟨hlow, hhigh, hrow⟩, hj⟩ := tapTarget_eq_some.1 hland
  refine ⟨⟨((p.x : Int) + p.dir * t.dx).toNat, p.y + t.dy, dir (p.y + t.dy)⟩,
    mem_scanBy.2 ⟨by simp only; omega, hrow, rfl⟩, hj.symm, ?_⟩
  rcases Nat.eq_zero_or_pos t.dy with hdy | hdy
  · have hdx : 0 < t.dx := by omega
    simp only [ScanPos.rank, hdy, Nat.add_zero, ← hpdir]
    rcases hpdir ▸ hdir p.y with hd | hd <;> simp only [hd] at hlow hhigh ⊢
    · simp only [if_true]
      omega
    · rw [if_neg (by decide), if_neg (by decide)]
      omega
  · exact ScanPos.rank_lt_of_row hpx (Nat.lt_add_of_pos_right hdy)

end

/-- Both scans are `scanBy` with rows in one direction or the other, and visit no pixel twice. -/
theorem scan_eq_scanBy {w h : Nat} {scan : List ScanPos} (hscan : scan = scanRaster w h ∨ scan = scanSerpentine w h) :
    (scan.map (ScanPos.index w)).Nodup ∧ ∃ dir : Nat → Int, (∀ y, dir y = 1 ∨ dir y = -1) ∧ scan = scanBy dir w h := by
  rcases hscan with rfl | rfl
  · exact ⟨scanRaster_indices w h ▸ List.nodup_range, fun _ => 1, fun _ => .inl rfl, scanRaster_eq w h⟩
  · exact ⟨(scanSerpentine_indices w h).nodup_iff.2 List.nodup_range, serpentineDir, serpentineDir_cases,
      scanSerpentine_eq w h⟩

/-- Settles O34: where the tap lands has the greater number, so it is visited later, and no pixel is visited twice. -/
theorem diffusionIsCausal : Obligations.DiffusionIsCausal := by
  unfold Obligations.DiffusionIsCausal
  intro cfg kernel w h j scan before after pos tap hcfg hscan hsplit htap hland
  obtain ⟨hone, dir, hdir, rfl⟩ := scan_eq_scanBy hscan
  obtain ⟨-, hahead, -⟩ := Kernel.wf_iff.1 (Config.kernel_wf hcfg kernel)
  have hpos : pos ∈ scanBy dir w h := hsplit ▸ List.mem_append_right _ List.mem_cons_self
  obtain ⟨q, hq, rfl, hlt⟩ := exists_rank_lt_of_tapTarget hdir hpos (hahead tap htap) hland
  have hafter : q.index w ∈ after.map (ScanPos.index w) := List.mem_map_of_mem (mem_after_of_rank_lt hsplit hq hlt)
  rw [hsplit, List.map_append, List.map_cons, List.nodup_append, List.nodup_cons] at hone
  obtain ⟨-, ⟨hnotlater, -⟩, hdisjoint⟩ := hone
  exact ⟨hafter, fun heq => hnotlater (heq ▸ hafter),
    fun hbefore => hdisjoint _ hbefore _ (List.mem_cons_of_mem _ hafter) rfl⟩

/-! ## Working values stay in range (00_scope.md R14, 42_gray_error_diffusion.md R141) -/

theorem toF_inSampleRange (fmt : FFormat) (b : Byte) : inSampleRange fmt (toF fmt b.toNat) := by
  have hle : ((b.toNat : Nat) : Int) ≤ 255 := by omega
  have hone : (0 : Int) ≤ unitOne fmt := Int.natCast_nonneg _
  exact ⟨Int.mul_le_mul_of_nonneg_right (Int.natCast_nonneg _) hone, Int.mul_le_mul_of_nonneg_right hle hone⟩

theorem seedGray_inSampleRange {fmt : FFormat} {gray : List Byte} {v : FVal} (hv : v ∈ seedGray fmt gray) :
    inSampleRange fmt v := by
  obtain ⟨b, -, rfl⟩ := List.mem_map.1 hv
  exact toF_inSampleRange fmt b

/-- What an element receives leaves it in range, for every received share is clamped. -/
theorem foldl_receive_inSampleRange {fmt : FFormat} (k : Kernel) (err : FVal) (taps : List Tap) {v : FVal}
    (hv : inSampleRange fmt v) : inSampleRange fmt (taps.foldl (fun v t => receive fmt k err t v) v) := by
  induction taps generalizing v with
  | nil => exact hv
  | cons t taps ih => exact ih (clampF_range fmt _)

theorem diffuse_inSampleRange {fmt : FFormat} (k : Kernel) (w h : Nat) (p : ScanPos) (err : FVal) {wb : List FVal}
    (hwb : ∀ v ∈ wb, inSampleRange fmt v) {v : FVal} (hv : v ∈ diffuse fmt k w h p err wb) : inSampleRange fmt v := by
  obtain ⟨j, hj⟩ := List.mem_iff_getElem?.1 hv
  rw [diffuse_getElem?, Option.map_eq_some_iff] at hj
  obtain ⟨u, hu, rfl⟩ := hj
  exact foldl_receive_inSampleRange k err _ (hwb u (List.mem_of_getElem? hu))

section
variable {fmt : FFormat} {v : FVal}

theorem clampF_of_lt (hv : v.units < (toF fmt 0).units) : clampF fmt v = toF fmt 0 :=
  if_pos (decide_eq_true hv)

theorem clampF_of_gt (hv : (toF fmt 255).units < v.units) : clampF fmt v = toF fmt 255 := by
  have hle : (toF fmt 0).units ≤ (toF fmt 255).units := (toF_inSampleRange fmt 0).2
  simp only [clampF, flt, fgt, decide_eq_true_eq]
  rw [if_neg (by omega), if_pos hv]

theorem clampF_of_inSampleRange (hv : inSampleRange fmt v) : clampF fmt v = v := by
  obtain ⟨hlow, hhigh⟩ := hv
  simp only [clampF, flt, fgt, decide_eq_true_eq]
  rw [if_neg (by omega), if_neg (by omega)]

end

/-- Settles O36: a seed is a byte, and an element a tap reaches has been clamped. -/
theorem workingValuesStayInRange : Obligations.WorkingValuesStayInRange := by
  unfold Obligations.WorkingValuesStayInRange
  intro fmt k w h pos err wb gray preinv src
  refine ⟨fun v => seedGray_inSampleRange, fun v hv => ?_, fun hwb v => diffuse_inSampleRange k w h pos err hwb,
    fun v => ⟨clampF_of_lt, clampF_of_gt, fun hlow hhigh => clampF_of_inSampleRange ⟨hlow, hhigh⟩⟩⟩
  simp only [List.mem_append, seedColor, List.mem_map] at hv
  rcases hv with (⟨p, -, rfl⟩ | ⟨p, -, rfl⟩) | ⟨p, -, rfl⟩ <;> exact toF_inSampleRange fmt _

/-! ## A pass emits each pixel once -/

/-- A pass emits each pixel of a grid of `n` once, and no other. -/
def emitsGrid (n : Nat) (outs : List (Nat × PixelOut)) : Prop := (outs.map Prod.fst).Perm (List.range n)

section
variable {n : Nat} {outs : List (Nat × PixelOut)} (h : emitsGrid n outs)
include h

theorem emitsGrid.staysInGrid : staysInGrid n outs := fun _ hi => List.mem_range.1 (h.mem_iff.1 hi)

theorem emitsGrid.nodup : (outs.map Prod.fst).Nodup := h.nodup_iff.2 List.nodup_range

theorem emitsGrid.exists_mem {i : Nat} (hi : i < n) : ∃ o, (i, o) ∈ outs := by
  obtain ⟨⟨_, o⟩, ho, rfl⟩ := List.mem_map.1 (h.mem_iff.2 (List.mem_range.2 hi))
  exact ⟨o, ho⟩

end

theorem pixelwise_emitsGrid (light : Nat → Byte → Bool) {n : Nat} {gray : List Byte} (hlen : gray.length = n) :
    emitsGrid n (pixelwise light gray) := by
  rw [emitsGrid, pixelwise_indices, hlen]

theorem plainMatch_emitsGrid (preinv : Bool) {n : Nat} {src : List Rgba} (pal : List Rgb) (hlen : src.length = n) :
    emitsGrid n (plainMatch preinv src pal) := by
  rw [emitsGrid, plainMatch_indices, hlen]

theorem grayPass_emitsGrid {n w : Nat} {scan : List ScanPos} (hscan : (scan.map (ScanPos.index w)).Perm (List.range n))
    (fmt : FFormat) (k : Kernel) (h : Nat) (quant : FVal → PixelOut × FVal) (wb : List FVal) :
    emitsGrid n (grayPass fmt k w h quant scan wb) := by
  rwa [emitsGrid, grayPass_indices]

theorem binaryDiffusion_emitsGrid (cfg : Config) (kernel : KernelId) (thr : Byte) (w h : Nat) (gray : List Byte) :
    emitsGrid (w * h) (binaryDiffusion cfg kernel thr w h gray) :=
  grayPass_emitsGrid (.of_eq (scanRaster_indices w h)) _ _ _ _ _

theorem levelDiffusion_emitsGrid (cfg : Config) (kernel : KernelId) (levels : Byte) (w h : Nat) (gray : List Byte) :
    emitsGrid (w * h) (levelDiffusion cfg kernel levels w h gray) :=
  grayPass_emitsGrid (scanSerpentine_indices w h) _ _ _ _ _

theorem colorDiffusion_emitsGrid (cfg : Config) (kernel : KernelId) (preinv : Bool) (w h : Nat) (src : List Rgba)
    (pal : List Rgb) : emitsGrid (w * h) (colorDiffusion cfg kernel preinv w h src pal) := by
  rw [emitsGrid, colorDiffusion, colorPass_indices]
  exact scanSerpentine_indices w h

/-- Every pixel a pass emits is held afterwards, on an admitted grid that fits. -/
theorem State.holdsPixel_of_emitsGrid {s : State} {outs : List (Nat × PixelOut)} (hwf : s.cfg.wf = true)
    (hfits : s.gridFits = true) (hgrid : emitsGrid s.pixels outs) {i : Nat} {o : PixelOut} (hmem : (i, o) ∈ outs) :
    State.holdsPixel { s with mem := s.mem.emitAll outs } i o :=
  State.holdsPixel_emitAll hwf (s.gridFits_iff.1 hfits) hgrid.staysInGrid hgrid.nodup hmem

/-- A gray quantizer that answers has read the samples, changed the bytes of its pixels alone, and left in each what its
pass emits. -/
theorem State.quantizeGray_pixels {s t : State} {pass : List Byte → List (Nat × PixelOut)} (hwf : s.cfg.wf = true)
    (hpass : ∀ gray, gray.length = s.pixels → emitsGrid s.pixels (pass gray)) (h : s.quantizeGray pass = .next t) :
    ∃ gray, s.mem.grayGrid s.pixels = some gray ∧ sameButMemory s t ∧ sameOutside (pixelAddrs s.pixels) s t ∧
      ∀ i o, (i, o) ∈ pass gray → t.holdsPixel i o := by
  obtain ⟨hfits, gray, hgray, rfl⟩ := State.quantizeGray_next.1 h
  have hgrid := hpass gray (gather_range.1 hgray).1
  have hframe : sameOutside (pixelAddrs s.pixels) s { s with mem := s.mem.emitAll (pass gray) } := by
    intro a ha
    refine Memory.read_emitAll_outside s.mem fun q hq => ?_
    have hin := hgrid.staysInGrid q.1 (List.mem_map_of_mem hq)
    exact ⟨fun hidx => ha (mem_pixelAddrs.2 ⟨q.1, hin, .inl hidx⟩),
      fun c hc hprev => ha (mem_pixelAddrs.2 ⟨q.1, hin, .inr ⟨c, hc, hprev⟩⟩)⟩
  exact ⟨gray, hgray, rfl, hframe, fun i o => State.holdsPixel_of_emitsGrid hwf hfits hgrid⟩

/-- A gray quantizer answers on a grid that fits and has been written. -/
theorem State.quantizeGray_answers {s : State} (pass : List Byte → List (Nat × PixelOut))
    (hfits : s.pixels ≤ s.cfg.maxPix) (hwritten : s.written (elemAddrs .gray s.pixels)) :
    ∃ t, s.quantizeGray pass = .next t := by
  obtain ⟨gray, hgray⟩ := State.grayGrid_of_written hwritten
  exact ⟨_, State.quantizeGray_next.2 ⟨s.gridFits_iff.2 hfits, gray, hgray, rfl⟩⟩

theorem Memory.read_of_grayGrid {m : Memory} {n i : Nat} {gray : List Byte} {v : Byte}
    (hgray : m.grayGrid n = some gray) (hv : gray[i]? = some v) : m.read (elemAddr .gray i) = some v := by
  obtain ⟨hi, rfl⟩ := List.getElem?_eq_some_iff.1 hv
  exact (gather_range.1 hgray).2 i hi

/-! ## A gray pass, seen from the pixel that receives the error (42_gray_error_diffusion.md R141) -/

section
variable (fmt : FFormat) (k : Kernel) (w h : Nat) (quant : FVal → PixelOut × FVal)

/-- The working buffer of a gray pass once the pixels of `visited` have diffused their errors. -/
def bufferAfter (visited : List ScanPos) (wb : List FVal) : List FVal :=
  visited.foldl (fun wb p => diffuse fmt k w h p (quant (wb.getD (p.index w) (toF fmt 0))).2 wb) wb

/-- The value with which a gray pass over `scan` visits pixel `i`. -/
def valueAt (scan : List ScanPos) (wb : List FVal) (i : Nat) : FVal :=
  (bufferAfter fmt k w h quant (scan.takeWhile fun p => decide (p.index w ≠ i)) wb).getD i (toF fmt 0)

/-- A gray pass goes on from where it is with the buffer it has. -/
theorem grayPass_append (before after : List ScanPos) (wb : List FVal) :
    grayPass fmt k w h quant (before ++ after) wb =
      grayPass fmt k w h quant before wb ++
        grayPass fmt k w h quant after (bufferAfter fmt k w h quant before wb) := by
  induction before generalizing wb with
  | nil => rfl
  | cons p before ih => exact congrArg _ (ih _)

/-- The buffer element by element: its seed and what the visited pixels have sent it. -/
theorem bufferAfter_getElem? {err : Nat → FVal} {visited : List ScanPos} {wb : List FVal}
    (herr : ∀ before p after, visited = before ++ p :: after → err (p.index w) =
      (quant ((bufferAfter fmt k w h quant before wb).getD (p.index w) (toF fmt 0))).2) (j : Nat) :
    (bufferAfter fmt k w h quant visited wb)[j]? = wb[j]?.map (pulledValue fmt k w h err visited j) := by
  induction visited generalizing wb with
  | nil => exact Option.map_id'.symm
  | cons p visited ih =>
    have hp : err (p.index w) = (quant (wb.getD (p.index w) (toF fmt 0))).2 := herr [] p visited rfl
    refine (ih fun before q after hsplit => herr (p :: before) q after (congrArg (p :: ·) hsplit)).trans ?_
    rw [diffuse_getElem?, Option.map_map, ← hp]
    rfl

variable {fmt k w h quant}

/-- Where no pixel is visited twice, the positions before the one of a pixel are those of the other pixels. -/
theorem takeWhile_index_ne {before after : List ScanPos} {p : ScanPos}
    (hone : ((before ++ p :: after).map (ScanPos.index w)).Nodup) :
    ((before ++ p :: after).takeWhile fun q => decide (q.index w ≠ p.index w)) = before := by
  rw [List.map_append, List.map_cons, List.nodup_append] at hone
  obtain ⟨-, -, hdisjoint⟩ := hone
  have hne : ∀ q ∈ before, decide (q.index w ≠ p.index w) = true := fun q hq =>
    decide_eq_true (hdisjoint _ (List.mem_map_of_mem hq) _ List.mem_cons_self)
  rw [List.takeWhile_append_of_pos hne, List.takeWhile_cons_of_neg (by simp), List.append_nil]

/-- A gray pass over a scan that visits each pixel once: the value of every visited pixel is the pulled one, and the pixel
is emitted as the quantizer says of it. -/
theorem grayPass_pulled {scan : List ScanPos} {gray : List Byte}
    (hscan : (scan.map (ScanPos.index w)).Perm (List.range gray.length)) :
    ∃ val : Nat → FVal, ∀ before p after, scan = before ++ p :: after →
      ∃ v, gray[p.index w]? = some v ∧
        val (p.index w) = pulledValue fmt k w h (fun i => (quant (val i)).2) before (p.index w) (toF fmt v.toNat) ∧
        (p.index w, (quant (val (p.index w))).1) ∈ grayPass fmt k w h quant scan (seedGray fmt gray) := by
  have hone : (scan.map (ScanPos.index w)).Nodup := hscan.nodup_iff.2 List.nodup_range
  have hval : ∀ before p after, scan = before ++ p :: after →
      valueAt fmt k w h quant scan (seedGray fmt gray) (p.index w) =
        (bufferAfter fmt k w h quant before (seedGray fmt gray)).getD (p.index w) (toF fmt 0) := by
    rintro before p after rfl
    rw [valueAt, takeWhile_index_ne hone]
  refine ⟨valueAt fmt k w h quant scan (seedGray fmt gray), fun before p after hsplit => ?_⟩
  have hin : p.index w < gray.length := by
    refine List.mem_range.1 (hscan.mem_iff.1 (List.mem_map_of_mem ?_))
    rw [hsplit]
    exact List.mem_append_right _ List.mem_cons_self
  refine ⟨gray[p.index w], List.getElem?_eq_getElem hin, ?_, ?_⟩
  · have hbuffer := bufferAfter_getElem? fmt k w h quant
      (visited := before) (err := fun i => (quant (valueAt fmt k w h quant scan (seedGray fmt gray) i)).2)
      (fun b q a hb => congrArg (fun v => (quant v).2) (hval b q (a ++ p :: after) (by simp [hsplit, hb])))
    rw [hval before p after hsplit, List.getD_eq_getElem?_getD, hbuffer]
    simp [seedGray, hin]
  · rw [hval before p after hsplit, hsplit, grayPass_append]
    exact List.mem_append_right _ List.mem_cons_self

/-- Every pixel a gray pass emits is the quantizer's answer to a working value in range. -/
theorem grayPass_quantizes {scan : List ScanPos} {wb : List FVal} (hwb : ∀ v ∈ wb, inSampleRange fmt v)
    {q : Nat × PixelOut} (hq : q ∈ grayPass fmt k w h quant scan wb) :
    ∃ v, inSampleRange fmt v ∧ q.2 = (quant v).1 := by
  induction scan generalizing wb with
  | nil => cases hq
  | cons p scan ih =>
    rcases List.mem_cons.1 hq with rfl | hq
    · refine ⟨_, ?_, rfl⟩
      rw [List.getD_eq_getElem?_getD]
      cases hv : wb[p.index w]? with
      | none => exact toF_inSampleRange fmt 0
      | some v => exact hwb v (List.mem_of_getElem? hv)
    · exact ih (fun v hv => diffuse_inSampleRange k w h p _ hwb hv) hq

end

/-- A diffusing gray quantizer, on an admitted grid that fits and has been written: it answers, its working values are the
pulled ones, and each pixel holds what the quantizer says of its own. -/
theorem State.quantizeGray_grayPass {s : State} (k : Kernel) (quant : FVal → PixelOut × FVal) {scan : List ScanPos}
    (hscan : (scan.map (ScanPos.index s.gridW)).Perm (List.range s.pixels)) (hwf : s.cfg.wf = true)
    (hfits : s.pixels ≤ s.cfg.maxPix) (hwritten : s.written (elemAddrs .gray s.pixels)) :
    ∃ (t : State) (val : Nat → FVal),
      s.quantizeGray (fun gray => grayPass s.cfg.fmt k s.gridW s.gridH quant scan (seedGray s.cfg.fmt gray)) = .next t ∧
      sameButMemory s t ∧ sameOutside (pixelAddrs s.pixels) s t ∧
      ∀ before pos after, scan = before ++ pos :: after →
        ∃ v, s.mem.read (elemAddr .gray (pos.index s.gridW)) = some v ∧
          val (pos.index s.gridW) =
            pulledValue s.cfg.fmt k s.gridW s.gridH (fun i => (quant (val i)).2) before (pos.index s.gridW)
              (toF s.cfg.fmt v.toNat) ∧
          t.holdsPixel (pos.index s.gridW) (quant (val (pos.index s.gridW))).1 := by
  obtain ⟨t, ht⟩ := State.quantizeGray_answers
    (fun gray => grayPass s.cfg.fmt k s.gridW s.gridH quant scan (seedGray s.cfg.fmt gray)) hfits hwritten
  obtain ⟨gray, hgray, hregs, hframe, hpixel⟩ :=
    State.quantizeGray_pixels hwf (fun _ _ => grayPass_emitsGrid hscan _ _ _ _ _) ht
  obtain ⟨hlen, -⟩ := gather_range.1 hgray
  obtain ⟨val, hval⟩ := grayPass_pulled (fmt := s.cfg.fmt) (k := k) (h := s.gridH) (quant := quant) (hlen ▸ hscan)
  refine ⟨t, val, ht, hregs, hframe, fun before pos after hsplit => ?_⟩
  obtain ⟨v, hv, hpulled, hmem⟩ := hval before pos after hsplit
  exact ⟨v, Memory.read_of_grayGrid hgray hv, hpulled, hpixel _ _ hmem⟩

/-! ## `QEDB` (42_gray_error_diffusion.md R142) -/

/-- A word with `OP` 4 is the `QEDB` command of its `KSEL` (30_encoding.md R92, R95). -/
theorem decodeWord_of_opField_four {c : Word} (h : opField c = 4) :
    decodeWord c = qedbOf (kselField c) (imm8Field c) := by
  simp [decodeWord, h]

theorem exec_of_mem_qedbCommands {thr : Byte} {p : Instr × KernelId} (hp : p ∈ qedbCommands thr) (s : State) :
    exec p.1 s = s.qedb p.2 thr := by
  fin_cases hp <;> rfl

section
variable {fmt : FFormat} {thr : Byte} {old : FVal}

theorem quantBinary_light (h : fgt old (toF fmt thr.toNat) = true) :
    quantBinary fmt thr old = (binaryOut true, fsub fmt old (toF fmt 255)) := by
  simp [quantBinary, h]

theorem quantBinary_dark (h : fgt old (toF fmt thr.toNat) = false) :
    quantBinary fmt thr old = (binaryOut false, fsub fmt old (toF fmt 0)) := by
  simp [quantBinary, h]

end

/-- Settles O31: the working values are those of the pass, the errors what `quantBinary` makes of them. -/
theorem qedbDiffusesInRasterOrder : Obligations.QedbDiffusesInRasterOrder := by
  unfold Obligations.QedbDiffusesInRasterOrder
  refine ⟨fun c => decodeWord_of_opField_four, fun thr s p hp hwf hfits hwritten => ?_⟩
  obtain ⟨t, val, ht, hregs, hframe, hval⟩ := State.quantizeGray_grayPass (s.cfg.kernels.get p.2)
    (quantBinary s.cfg.fmt thr) (.of_eq (scanRaster_indices s.gridW s.gridH)) hwf hfits hwritten
  refine ⟨t, val, fun i => (quantBinary s.cfg.fmt thr (val i)).2, (exec_of_mem_qedbCommands hp s).trans ht, hregs, hframe,
    fun before pos after hsplit => ?_⟩
  obtain ⟨v, hv, hpulled, hheld⟩ := hval before pos after hsplit
  refine ⟨v, hv, hpulled, fun hlight => ?_, fun hdark => ?_⟩
  · rw [quantBinary_light hlight] at hheld
    exact ⟨congrArg Prod.snd (quantBinary_light hlight), hheld⟩
  · rw [quantBinary_dark hdark] at hheld
    exact ⟨congrArg Prod.snd (quantBinary_dark hdark), hheld⟩

/-- Settles O33: no working value exceeds 255. -/
theorem qedbAt255IsAllDark : Obligations.QedbAt255IsAllDark := by
  unfold Obligations.QedbAt255IsAllDark
  intro s t p hp hwf h i hi
  rw [exec_of_mem_qedbCommands hp] at h
  obtain ⟨gray, -, -, -, hpixel⟩ :=
    State.quantizeGray_pixels hwf (fun gray _ => binaryDiffusion_emitsGrid _ _ _ _ _ gray) h
  obtain ⟨o, ho⟩ := (binaryDiffusion_emitsGrid s.cfg p.2 255 s.gridW s.gridH gray).exists_mem hi
  obtain ⟨v, ⟨-, hle⟩, hquant : o = _⟩ := grayPass_quantizes (fun _ => seedGray_inSampleRange) ho
  have hdark : fgt v (toF s.cfg.fmt (255 : Byte).toNat) = false := decide_eq_false (Int.not_lt.2 hle)
  have hheld := hpixel i o ho
  rwa [hquant, quantBinary_dark hdark, State.holdsPixel_dark] at hheld

/-! ## `QEDN` (42_gray_error_diffusion.md R143 to R145, R150) -/

/-- A word with `OP` 5 is the `QEDN` command of its `KSEL` (30_encoding.md R92, R95). -/
theorem decodeWord_of_opField_five {c : Word} (h : opField c = 5) :
    decodeWord c = qednOf (kselField c) (imm8Field c) := by
  simp [decodeWord, h]

theorem exec_of_mem_qednCommands {levels : Byte} {p : Instr × KernelId} (hp : p ∈ qednCommands levels) (s : State) :
    exec p.1 s = s.qedn p.2 levels := by
  fin_cases hp <;> rfl

theorem levelOf_eq (fmt : FFormat) {levels : Byte} (hlevels : 2 ≤ levels.toNat) (val : FVal) :
    levelOf fmt levels val =
      max 0 (min ((levels.toNat : Int) - 1) (roundHAZ fmt (fdiv fmt val (levelStep fmt levels)))) := by
  simp only [levelOf]
  split_ifs <;> omega

/-- A level is 0 to `LEVELS - 1`. -/
theorem levelOf_bounds (fmt : FFormat) {levels : Byte} (hlevels : 2 ≤ levels.toNat) (val : FVal) :
    0 ≤ levelOf fmt levels val ∧ levelOf fmt levels val < levels.toNat := by
  rw [levelOf_eq fmt hlevels]
  omega

theorem previewSample_eq (fmt : FFormat) (rec' : FVal) :
    previewSample fmt rec' = BitVec.ofInt 8 (min 255 (roundHAZ fmt rec')) := by
  simp only [previewSample]
  split_ifs <;> congr 1 <;> omega

/-- Settles O32: the working values are those of the pass, the levels and errors what `quantLevels` makes of them. -/
theorem qednDiffusesInSerpentineOrder : Obligations.QednDiffusesInSerpentineOrder := by
  unfold Obligations.QednDiffusesInSerpentineOrder
  refine ⟨fun c => decodeWord_of_opField_five, fun levels s p hp => ⟨fun hlt => ?_, fun hlevels hwf hfits hwritten => ?_⟩⟩
  · rw [exec_of_mem_qednCommands hp, State.qedn, if_pos hlt]
    rfl
  have hexec : exec p.1 s = s.quantizeGray (levelDiffusion s.cfg p.2 levels s.gridW s.gridH) := by
    rw [exec_of_mem_qednCommands hp, State.qedn, if_neg (Nat.not_lt.2 hlevels)]
  obtain ⟨t, val, ht, hregs, hframe, hval⟩ := State.quantizeGray_grayPass (s.cfg.kernels.get p.2)
    (quantLevels s.cfg.fmt levels) (scanSerpentine_indices s.gridW s.gridH) hwf hfits hwritten
  refine ⟨t, val, fun i => (quantLevels s.cfg.fmt levels (val i)).2, hexec.trans ht, hregs, hframe,
    fun before pos after hsplit => ?_⟩
  obtain ⟨v, hv, hpulled, hheld⟩ := hval before pos after hsplit
  simp only [State.holdsPixel, quantLevels, grayOut, previewSample_eq] at hheld
  exact ⟨v, hv, hpulled, levelStep s.cfg.fmt levels, _, _, _, rfl, levelOf_eq s.cfg.fmt hlevels _, rfl, rfl, rfl, hheld⟩

/-! ## The indices a quantizer emits (41_stateless_quantizers.md R130, 44_color_error_diffusion.md R195) -/

theorem binaryOut_index_lt (light : Bool) : (binaryOut light).index.toNat < 2 := by
  cases light <;> decide

theorem quantBinary_index_lt (fmt : FFormat) (thr : Byte) (v : FVal) : (quantBinary fmt thr v).1.index.toNat < 2 :=
  binaryOut_index_lt _

theorem quantLevels_index_lt (fmt : FFormat) {levels : Byte} (hlevels : 2 ≤ levels.toNat) (v : FVal) :
    (quantLevels fmt levels v).1.index.toNat < levels.toNat := by
  obtain ⟨hlow, hhigh⟩ := levelOf_bounds fmt hlevels v
  have hbyte := levels.isLt
  simp only [quantLevels, grayOut, BitVec.toNat_ofInt]
  omega

/-- The matcher's loop answers the best entry so far or a later one. -/
theorem nearestFrom_lt {α : Type} (lt : α → α → Bool) (ds : List α) {j best : Nat} (bestd : α) (hbest : best < j) :
    nearestFrom lt ds j best bestd < j + ds.length := by
  induction ds generalizing j best bestd with
  | nil => exact hbest
  | cons d ds ih =>
    simp only [nearestFrom, List.length_cons]
    split
    · exact (ih d (Nat.lt_succ_self j)).trans_le (by omega)
    · exact (ih bestd (Nat.lt_succ_of_lt hbest)).trans_le (by omega)

theorem nearest_lt {α : Type} (lt : α → α → Bool) {ds : List α} (hpos : 0 < ds.length) : nearest lt ds < ds.length := by
  cases ds with
  | nil => cases hpos
  | cons d ds => exact (nearestFrom_lt lt ds d Nat.zero_lt_one).trans_eq (Nat.add_comm _ _)

theorem paletteOut_index_le (pal : List Rgb) (j : Nat) (alpha : Byte) : (paletteOut pal j alpha).index.toNat ≤ j := by
  simp only [paletteOut, BitVec.toNat_ofNat]
  exact Nat.mod_le _ _

section
variable {pal : List Rgb} (hpal : 0 < pal.length)
include hpal

theorem matchInt_lt (p : Rgb) : matchInt pal p < pal.length := by
  simpa only [matchInt, List.length_map] using nearest_lt (fun d e => decide (d < e)) (ds := pal.map (distInt p))
    (by rwa [List.length_map])

theorem matchF_lt (fmt : FFormat) (v : ColorVal) : matchF fmt pal v < pal.length := by
  simpa only [matchF, List.length_map] using nearest_lt flt (ds := pal.map (distF fmt v)) (by rwa [List.length_map])

theorem plainMatch_index_lt {preinv : Bool} {src : List Rgba} {q : Nat × PixelOut} (hq : q ∈ plainMatch preinv src pal) :
    q.2.index.toNat < pal.length := by
  obtain ⟨i, hi, rfl⟩ := List.mem_mapIdx.1 hq
  exact (paletteOut_index_le pal _ _).trans_lt (matchInt_lt hpal _)

theorem colorPass_index_lt {fmt : FFormat} {k : Kernel} {w h : Nat} {src : List Rgba} {scan : List ScanPos} {wb : Planes}
    {q : Nat × PixelOut} (hq : q ∈ colorPass fmt k w h pal src scan wb) : q.2.index.toNat < pal.length := by
  induction scan generalizing wb with
  | nil => cases hq
  | cons p scan ih =>
    rcases List.mem_cons.1 hq with rfl | hq
    · exact (paletteOut_index_le pal _ _).trans_lt (matchF_lt hpal fmt _)
    · exact ih hq

end

/-- Each of the first `n` elements of `IDX` has been written and is below `bound`. -/
def State.indicesBelow (s : State) (n bound : Nat) : Prop :=
  ∀ i < n, ∃ v, s.mem.read (elemAddr .idx i) = some v ∧ v.toNat < bound

theorem State.indicesBelow_emitAll {s : State} {outs : List (Nat × PixelOut)} {bound : Nat} (hwf : s.cfg.wf = true)
    (hfits : s.gridFits = true) (hgrid : emitsGrid s.pixels outs) (hbound : ∀ q ∈ outs, q.2.index.toNat < bound) :
    State.indicesBelow { s with mem := s.mem.emitAll outs } s.pixels bound := by
  intro i hi
  obtain ⟨o, ho⟩ := hgrid.exists_mem hi
  obtain ⟨hidx, -⟩ := State.holdsPixel_of_emitsGrid hwf hfits hgrid ho
  exact ⟨o.index, hidx, hbound _ ho⟩

theorem State.quantizeGray_indicesBelow {s t : State} {pass : List Byte → List (Nat × PixelOut)} {bound : Nat}
    (hwf : s.cfg.wf = true) (hgrid : ∀ gray, gray.length = s.pixels → emitsGrid s.pixels (pass gray))
    (hbound : ∀ gray, ∀ q ∈ pass gray, q.2.index.toNat < bound) (h : s.quantizeGray pass = .next t) :
    t.indicesBelow s.pixels bound := by
  obtain ⟨hfits, gray, hgray, rfl⟩ := State.quantizeGray_next.1 h
  exact State.indicesBelow_emitAll hwf hfits (hgrid gray (gather_range.1 hgray).1) (hbound gray)

/-- On a grid with a pixel the palette of a command has `NPAL` entries. -/
theorem State.quantizePalette_indicesBelow {s t : State} {npal : Nat}
    {pass : List Rgba → List Rgb → List (Nat × PixelOut)} (hwf : s.cfg.wf = true) (hnpal : 0 < npal)
    (hgrid : ∀ src pal, src.length = s.pixels → emitsGrid s.pixels (pass src pal))
    (hbound : ∀ src pal, 0 < pal.length → ∀ q ∈ pass src pal, q.2.index.toNat < pal.length)
    (h : s.quantizePalette npal pass = .next t) : t.indicesBelow s.pixels npal := by
  obtain ⟨hfits, src, pal, hsrc, hpal, rfl⟩ := State.quantizePalette_next.1 h
  intro i hi
  have hpixels : s.pixels ≠ 0 := (Nat.zero_lt_of_lt hi).ne'
  obtain ⟨hlen, -⟩ := gather_range.1 hpal
  rw [if_neg hpixels] at hlen
  exact State.indicesBelow_emitAll hwf hfits (hgrid src pal (gather_range.1 hsrc).1)
    (fun q hq => (hbound src pal (hlen ▸ hnpal) q hq).trans_eq hlen) i hi

theorem pixelwise_index_lt {light : Nat → Byte → Bool} {gray : List Byte} {q : Nat × PixelOut}
    (hq : q ∈ pixelwise light gray) : q.2.index.toNat < 2 := by
  obtain ⟨i, hi, rfl⟩ := List.mem_mapIdx.1 hq
  exact binaryOut_index_lt _

/-- A bound on what a gray diffusion's quantizer answers is one on what its pass emits. -/
theorem grayPass_index_lt {fmt : FFormat} {k : Kernel} {w h bound : Nat} {quant : FVal → PixelOut × FVal}
    (hquant : ∀ v, (quant v).1.index.toNat < bound) {scan : List ScanPos} {gray : List Byte} {q : Nat × PixelOut}
    (hq : q ∈ grayPass fmt k w h quant scan (seedGray fmt gray)) : q.2.index.toNat < bound := by
  obtain ⟨v, -, hout⟩ := grayPass_quantizes (fun _ => seedGray_inSampleRange) hq
  rw [hout]
  exact hquant v

theorem commandKind_gray_bound {i : Instr} {bound : Nat} (hk : commandKind i = .gray bound) : bound = 2 := by
  cases i <;> simp only [commandKind, CommandKind.gray.injEq, reduceCtorEq] at hk
  all_goals exact hk.symm

/-- A command word names at least one palette entry (30_encoding.md R94). -/
theorem npal_pos_of_wf {i : Instr} {npal : Nat} (hi : i.wf = true) (hk : commandKind i = .palette npal) : 0 < npal := by
  cases i <;> simp only [commandKind, CommandKind.palette.injEq, reduceCtorEq] at hk
  all_goals
    subst hk
    exact (npalOk_iff.1 hi).1

/-- Settles O23: for each kind, the bound on the indices its pass emits. -/
theorem emittedIndicesAreInRange : Obligations.EmittedIndicesAreInRange := by
  unfold Obligations.EmittedIndicesAreInRange
  intro i s t hwf hi h bound hkind
  have hop := exec_kind i s
  rcases hkind with hk | hk | ⟨l, hk, hlevels, rfl⟩ <;> simp only [hk, h] at hop
  · obtain rfl : bound = 2 := commandKind_gray_bound hk
    rcases hop with ⟨thr, hop⟩ | ⟨thr, hop⟩ | ⟨kernel, thr, hop⟩
    · exact State.quantizeGray_indicesBelow hwf (fun _ => pixelwise_emitsGrid _) (fun _ _ => pixelwise_index_lt) hop.symm
    · exact State.quantizeGray_indicesBelow hwf (fun _ => pixelwise_emitsGrid _) (fun _ _ => pixelwise_index_lt) hop.symm
    · exact State.quantizeGray_indicesBelow hwf (fun gray _ => binaryDiffusion_emitsGrid _ _ _ _ _ gray)
        (fun _ _ => grayPass_index_lt (quantBinary_index_lt _ _)) hop.symm
  · have hnpal : 0 < bound := npal_pos_of_wf hi hk
    rcases hop with ⟨preinv, hop⟩ | ⟨kernel, preinv, hop⟩
    · exact State.quantizePalette_indicesBelow hwf hnpal (fun _ pal => plainMatch_emitsGrid _ pal)
        (fun _ _ hpal _ => plainMatch_index_lt hpal) hop.symm
    · exact State.quantizePalette_indicesBelow hwf hnpal (fun src pal _ => colorDiffusion_emitsGrid _ _ _ _ _ src pal)
        (fun _ _ hpal _ => colorPass_index_lt hpal) hop.symm
  · obtain ⟨kernel, hop⟩ := hop
    rw [State.qedn, if_neg (Nat.not_lt.2 hlevels)] at hop
    exact State.quantizeGray_indicesBelow hwf (fun gray _ => levelDiffusion_emitsGrid _ _ _ _ _ gray)
      (fun _ _ => grayPass_index_lt (quantLevels_index_lt _ hlevels)) hop.symm

/-! ## The kernel tables (42_gray_error_diffusion.md R146, R147, 44_color_error_diffusion.md R185 to R193) -/

/-- The taps of a table, row by row: the weights that are not 0, at column offsets from -2 up. -/
def tableTaps (rows : List (List Nat)) : List Tap :=
  (rows.zipIdx.flatMap fun row => row.1.zipIdx.map fun e => (⟨(e.2 : Int) - 2, row.2, e.1⟩ : Tap)).filter
    fun t => decide (0 < t.w)

theorem mem_tableTaps {rows : List (List Nat)} {tap : Tap} :
    tap ∈ tableTaps rows ↔
      0 < tap.w ∧ -2 ≤ tap.dx ∧ (rows[tap.dy]?.bind fun row => row[(tap.dx + 2).toNat]?) = some tap.w := by
  obtain ⟨dx, dy, w⟩ := tap
  simp only [tableTaps, List.mem_filter, List.mem_flatMap, List.mem_map, decide_eq_true_eq, Prod.exists,
    List.mem_zipIdx_iff_getElem?, Option.bind_eq_some_iff, Tap.mk.injEq]
  constructor
  · rintro ⟨⟨row, _, hrow, _, col, hweight, rfl, rfl, rfl⟩, hpos⟩
    exact ⟨hpos, by omega, row, hrow, by rwa [Int.sub_add_cancel, Int.toNat_natCast]⟩
  · rintro ⟨hpos, hlow, row, hrow, hweight⟩
    exact ⟨⟨row, dy, hrow, w, (dx + 2).toNat, hweight, by omega, rfl, rfl⟩, hpos⟩

/-- Settles O54: the taps of each kernel are those of its table, in the table's order. -/
theorem kernelsAreTheRulesTables : Obligations.KernelsAreTheRulesTables := by
  unfold Obligations.KernelsAreTheRulesTables
  intro p hp
  have hkernel : State.reset.cfg.kernels.get p.1 = ⟨tableTaps p.2.2, p.2.1⟩ := by
    fin_cases hp <;> decide
  rw [hkernel]
  exact ⟨rfl, fun tap => mem_tableTaps⟩

end Sys2Proof.Machine
end

section
/-! PROOFS. The statements of 43_palette_matcher.md: the entry the matcher chooses, what a palette quantizer reads and leaves
in its pixels, and the command `QPAL.NONE`. -/

namespace Sys2Proof.Machine

/-! ## The matcher's loop (43_palette_matcher.md R172) -/

section
variable {α β : Type} [LinearOrder β]

/-- Entry `j` of a list is the first of those with a least key. -/
def isFirstLeast (key : α → β) (ds : List α) (j : Nat) : Prop :=
  ∃ hj : j < ds.length, ∀ k (hk : k < ds.length), key ds[j] ≤ key ds[k] ∧ (k < j → key ds[j] < key ds[k])

theorem isFirstLeast_singleton (key : α → β) (d : α) : isFirstLeast key [d] 0 := by
  refine ⟨Nat.zero_lt_one, fun k hk => ?_⟩
  obtain rfl : k = 0 := Nat.lt_one_iff.1 hk
  exact ⟨le_rfl, fun h => (lt_irrefl 0 h).elim⟩

variable {key : α → β} {seen : List α} {best : Nat}

/-- A further entry that is strictly less than the first least one takes its place. -/
theorem isFirstLeast.append_lt (h : isFirstLeast key seen best) {bestd d : α} (hbest : seen[best]? = some bestd)
    (hlt : key d < key bestd) : isFirstLeast key (seen ++ [d]) seen.length := by
  obtain ⟨hb, hleast⟩ := h
  obtain ⟨_, rfl⟩ := List.getElem?_eq_some_iff.1 hbest
  refine ⟨by simp, fun k hk => ?_⟩
  rw [List.getElem_concat_length rfl]
  rcases Nat.lt_or_ge k seen.length with hseen | hlast
  · rw [List.getElem_append_left hseen]
    have hless := hlt.trans_le (hleast k hseen).1
    exact ⟨hless.le, fun _ => hless⟩
  · obtain rfl : k = seen.length := by rw [List.length_append, List.length_singleton] at hk; omega
    rw [List.getElem_concat_length rfl]
    exact ⟨le_rfl, fun h => (lt_irrefl _ h).elim⟩

/-- A further entry that is not strictly less leaves the first least one where it is. -/
theorem isFirstLeast.append_not_lt (h : isFirstLeast key seen best) {bestd d : α} (hbest : seen[best]? = some bestd)
    (hnot : ¬ key d < key bestd) : isFirstLeast key (seen ++ [d]) best := by
  obtain ⟨hb, hleast⟩ := h
  obtain ⟨_, rfl⟩ := List.getElem?_eq_some_iff.1 hbest
  refine ⟨by rw [List.length_append]; omega, fun k hk => ?_⟩
  rw [List.getElem_append_left hb]
  rcases Nat.lt_or_ge k seen.length with hseen | hlast
  · rw [List.getElem_append_left hseen]
    exact hleast k hseen
  · obtain rfl : k = seen.length := by rw [List.length_append, List.length_singleton] at hk; omega
    rw [List.getElem_concat_length rfl]
    exact ⟨not_lt.1 hnot, fun h => (Nat.lt_asymm h hb).elim⟩

variable {lt : α → α → Bool} (hlt : ∀ d e, lt d e = true ↔ key d < key e)
include hlt

/-- The loop's invariant: `best` is the first least entry of those it has seen. -/
theorem nearestFrom_isFirstLeast (ds : List α) {bestd : α} (h : isFirstLeast key seen best)
    (hbest : seen[best]? = some bestd) :
    isFirstLeast key (seen ++ ds) (nearestFrom lt ds seen.length best bestd) := by
  induction ds generalizing seen best bestd with
  | nil => simpa [nearestFrom] using h
  | cons d ds ih =>
    have hlen : seen.length + 1 = (seen ++ [d]).length := by simp
    rw [nearestFrom, List.append_cons, hlen]
    split_ifs with hd
    · exact ih (h.append_lt hbest ((hlt _ _).1 hd)) List.getElem?_concat_length
    · obtain ⟨hb, -⟩ := List.getElem?_eq_some_iff.1 hbest
      exact ih (h.append_not_lt hbest (mt (hlt _ _).2 hd)) (by rwa [List.getElem?_append_left hb])

theorem nearest_isFirstLeast {ds : List α} (hpos : 0 < ds.length) : isFirstLeast key ds (nearest lt ds) := by
  cases ds with
  | nil => cases hpos
  | cons d ds => exact nearestFrom_isFirstLeast hlt ds (isFirstLeast_singleton key d) rfl

end

/-- The entry `match_int` answers is the first of those at least distance. -/
theorem matchInt_isFirstLeast {pal : List Rgb} (hpal : 0 < pal.length) (p : Rgb) :
    isFirstLeast (distInt p) pal (matchInt pal p) := by
  have h := nearest_isFirstLeast (key := id) (lt := fun d e : Nat => decide (d < e)) (fun _ _ => decide_eq_true_iff)
    (ds := pal.map (distInt p)) (by rwa [List.length_map])
  simpa [isFirstLeast, matchInt] using h

/-! ## Distance and pre-inversion (43_palette_matcher.md R171, R173) -/

theorem squaredDiff_eq (a b : Byte) : (squaredDiff a b : Int) = ((a.toNat : Int) - b.toNat) ^ 2 :=
  Int.toNat_of_nonneg (sq_nonneg _)

theorem distInt_eq (p e : Rgb) :
    (distInt p e : Int) = ((p.r.toNat : Int) - e.r.toNat) ^ 2 + ((p.g.toNat : Int) - e.g.toNat) ^ 2 +
      ((p.b.toNat : Int) - e.b.toNat) ^ 2 := by
  simp only [distInt, Nat.cast_add, squaredDiff_eq]

/-- No channel exceeds 255, so the photographic negative is that of the integers. -/
theorem pre_toNat (preinv : Bool) (c : Byte) :
    ((pre preinv c).toNat : Int) = if preinv then 255 - (c.toNat : Int) else c.toNat := by
  cases preinv
  · rfl
  · simp only [pre, if_true]
    bv_omega

/-! ## What a palette quantizer reads and leaves in its pixels (43_palette_matcher.md R170, R175) -/

/-- Pixels whose four channels have been written can be read. -/
theorem State.srcGrid_of_written {s : State} {n : Nat} (h : s.written (chanAddrs .src n 4)) :
    ∃ src, s.mem.srcGrid n = some src := by
  refine Option.isSome_iff_exists.1 (gather_isSome.2 fun i hi => ?_)
  have hread : ∀ c < 4, (s.mem.read (chanAddr .src i c)).isSome := fun c hc =>
    h _ (mem_chanAddrs.2 ⟨i, List.mem_range.1 hi, c, hc, rfl⟩)
  obtain ⟨rgb, hrgb⟩ := Option.isSome_iff_exists.1 (Memory.rgbAt_isSome fun c hc => hread c (Nat.lt_succ_of_lt hc))
  obtain ⟨a, ha⟩ := Option.isSome_iff_exists.1 (hread 3 (by decide))
  exact Option.isSome_iff_exists.2 ⟨⟨rgb, a⟩, Memory.rgbaAt_eq_some.2 ⟨hrgb, ha⟩⟩

/-- Palette entries whose colours have been written can be read, and a command on a grid with a pixel sees just those. -/
theorem State.palette_of_written {s : State} {npal : Nat} (h : s.written (chanAddrs .pal npal 3)) (n : Nat) :
    ∃ pal, pal.length = npal ∧ (∀ j (hj : j < pal.length), s.mem.rgbAt .pal j = some pal[j]) ∧
      ∃ visible, s.mem.palette npal n = some visible ∧ (n ≠ 0 → visible = pal) := by
  obtain ⟨pal, hpal⟩ : ∃ pal, gather (fun j => s.mem.rgbAt .pal j) (List.range npal) = some pal :=
    Option.isSome_iff_exists.1 <| gather_isSome.2 fun j hj =>
      Memory.rgbAt_isSome fun c hc => h _ (mem_chanAddrs.2 ⟨j, List.mem_range.1 hj, c, hc, rfl⟩)
  obtain ⟨hlen, hentry⟩ := gather_range.1 hpal
  refine ⟨pal, hlen, hentry, ?_⟩
  by_cases hn : n = 0
  · exact ⟨[], by rw [Memory.palette, if_pos hn]; rfl, fun h => (h hn).elim⟩
  · exact ⟨pal, by rw [Memory.palette, if_neg hn]; exact hpal, fun _ => rfl⟩

/-- A palette quantizer, on an admitted grid that fits and has been written: it answers, and each pixel holds what its pass
emits for the source pixels and palette entries in memory. -/
theorem State.quantizePalette_pixels {s : State} {npal : Nat} {pass : List Rgba → List Rgb → List (Nat × PixelOut)}
    (hpass : ∀ src pal, src.length = s.pixels → emitsGrid s.pixels (pass src pal)) (hwf : s.cfg.wf = true)
    (hfits : s.pixels ≤ s.cfg.maxPix) (hsrc : s.written (chanAddrs .src s.pixels 4))
    (hpal : s.written (chanAddrs .pal npal 3)) :
    ∃ (t : State) (src : List Rgba) (pal : List Rgb),
      s.quantizePalette npal pass = .next t ∧ s.mem.srcGrid s.pixels = some src ∧ pal.length = npal ∧
      (∀ j (hj : j < pal.length), s.mem.rgbAt .pal j = some pal[j]) ∧
      ∀ i < s.pixels, ∀ o, (i, o) ∈ pass src pal → t.holdsPixel i o := by
  obtain ⟨src, hsrc⟩ := State.srcGrid_of_written hsrc
  obtain ⟨pal, hlen, hentry, visible, hvisible, heq⟩ := State.palette_of_written hpal s.pixels
  have hgridFits := s.gridFits_iff.2 hfits
  refine ⟨_, src, pal, State.quantizePalette_next.2 ⟨hgridFits, src, visible, hsrc, hvisible, rfl⟩, hsrc, hlen, hentry,
    fun i hi o ho => ?_⟩
  obtain rfl : visible = pal := heq (Nat.zero_lt_of_lt hi).ne'
  exact State.holdsPixel_of_emitsGrid hwf hgridFits (hpass src visible (gather_range.1 hsrc).1) ho

/-- A command of a palette quantizer changes the bytes of its pixels alone. -/
theorem exec_palette_frame {i : Instr} {s t : State} {npal : Nat} (hkind : commandKind i = .palette npal)
    (h : exec i s = .next t) : sameButMemory s t ∧ sameOutside (pixelAddrs s.pixels) s t := by
  obtain ⟨houtside, -, hregs⟩ := commandsWriteOnlyTheirOutputs i s t h
  rw [hkind] at houtside hregs
  exact ⟨hregs, houtside⟩

theorem paletteOut_of_lt {pal : List Rgb} {j : Nat} (hj : j < pal.length) (alpha : Byte) :
    paletteOut pal j alpha = ⟨BitVec.ofNat 8 j, ⟨pal[j], alpha⟩⟩ := by
  simp [paletteOut, hj]

/-! ## `QPAL.NONE` (43_palette_matcher.md R174) -/

/-- A word with `OP` 6 is the `QPAL` command of its `KSEL` (30_encoding.md R92, R96). -/
theorem decodeWord_of_opField_six {c : Word} (h : opField c = 6) :
    decodeWord c = qpalOf (kselField c) ((npalm1Field c).toNat + 1) (preinvField c) := by
  simp [decodeWord, h]

theorem mem_plainMatch (preinv : Bool) {src : List Rgba} {i : Nat} (hi : i < src.length) (pal : List Rgb) :
    (i, paletteOut pal (matchInt pal (preRgb preinv src[i].rgb)) src[i].a) ∈ plainMatch preinv src pal :=
  List.mem_mapIdx.2 ⟨i, hi, rfl⟩

/-- Settles O39: each pixel holds the entry that `matchInt` answers for its pre-inverted colour, the first of those at least
distance. -/
theorem qpalNoneEmitsTheNearestEntry : Obligations.QpalNoneEmitsTheNearestEntry := by
  unfold Obligations.QpalNoneEmitsTheNearestEntry
  refine ⟨fun c hop hksel => by rw [decodeWord_of_opField_six hop, hksel]; rfl,
    fun npal preinv s hi hwf hfits hsrc hpal => ?_⟩
  obtain ⟨t, src, pal, ht, hgrid, hlen, hentry, hpixel⟩ :=
    State.quantizePalette_pixels (fun _ pal => plainMatch_emitsGrid preinv pal) hwf hfits hsrc hpal
  have hexec : exec (.qpalNone npal preinv) s = .next t := ht
  obtain ⟨hregs, houtside⟩ := exec_palette_frame rfl hexec
  refine ⟨t, hexec, hregs, houtside, pal, hlen, fun j hj => Memory.rgbAt_eq_some.1 (hentry j hj), fun i hi' => ?_⟩
  obtain ⟨hsrcLen, hsrcAt⟩ := gather_range.1 hgrid
  have hsrcLt : i < src.length := hsrcLen ▸ hi'
  obtain ⟨hrgb, ha⟩ := Memory.rgbaAt_eq_some.1 (hsrcAt i hsrcLt)
  obtain ⟨hr, hg, hb⟩ := Memory.rgbAt_eq_some.1 hrgb
  have hpos : 0 < pal.length := hlen ▸ npal_pos_of_wf hi rfl
  obtain ⟨hj, hfirst⟩ := matchInt_isFirstLeast hpos (preRgb preinv src[i].rgb)
  have hheld := hpixel i hi' _ (mem_plainMatch preinv hsrcLt pal)
  rw [paletteOut_of_lt hj] at hheld
  refine ⟨_, _, _, _, _, hj, fun e => distInt (preRgb preinv src[i].rgb) e, hr, hg, hb, ha, fun e => ?_,
    fun k hk => Int.ofNat_le.2 (hfirst k hk).1, fun k hk hkj => Int.ofNat_lt.2 ((hfirst k hk).2 hkj), hheld⟩
  simp only [distInt_eq, preRgb, pre_toNat]

end Sys2Proof.Machine
end

section
/-! PROOFS. The statements of 44_color_error_diffusion.md: the matcher in `F` on integer colours, the color diffusion pass
seen from the receiving pixel, and the commands `QPAL` with a kernel. -/

namespace Sys2Proof.Machine

/-! ## The matcher in `F` on integer colours (44_color_error_diffusion.md R181) -/

/-- Rounding a fraction that is a value of the format changes nothing. -/
theorem roundF_mul_of_representable {fmt : FFormat} {n : Int} {den : Nat} (hprec : 0 < fmt.prec) (hden : 0 < den)
    (hn : representable fmt n.natAbs) : roundF fmt (n * den) den = ⟨n⟩ := by
  have hmag : roundMagnitude fmt (n.natAbs * den) den = n.natAbs := by
    have hle := (roundMagnitude_nearest (mag := n.natAbs * den) hden hprec hn).1
    exact Nat.eq_of_mul_eq_mul_right hden (by omega)
  have hsign : n * den < 0 ↔ n < 0 := by rw [Int.mul_neg_iff]; omega
  simp only [roundF, Int.natAbs_mul, Int.natAbs_natCast, hmag, hsign]
  split_ifs <;> congr 1 <;> omega

/-- Two bytes are at most 255 apart. -/
theorem squaredDiff_le (a b : Byte) : squaredDiff a b ≤ 255 ^ 2 := by
  have hsq : ((a.toNat : Int) - b.toNat) ^ 2 ≤ 255 ^ 2 := sq_le_sq.2 (by simp only [abs_le, Nat.abs_ofNat]; omega)
  rw [← squaredDiff_eq] at hsq
  exact_mod_cast hsq

section
variable {fmt : FFormat} (hprec : 24 ≤ fmt.prec) {m n : Int}
include hprec

theorem representable_toF (hn : n.natAbs ≤ 2 ^ 24) : representable fmt (toF fmt n).units.natAbs :=
  (toFIsExact fmt n hprec hn).2.1

theorem fadd_toF (h : (m + n).natAbs ≤ 2 ^ 24) : fadd fmt (toF fmt m) (toF fmt n) = toF fmt (m + n) := by
  have hsum : (toF fmt m).units + (toF fmt n).units = (toF fmt (m + n)).units := (Int.add_mul _ _ _).symm
  rw [fadd, hsum, roundF_of_representable (by omega) (representable_toF hprec h)]

theorem fsub_toF (h : (m - n).natAbs ≤ 2 ^ 24) : fsub fmt (toF fmt m) (toF fmt n) = toF fmt (m - n) := by
  have hdiff : (toF fmt m).units - (toF fmt n).units = (toF fmt (m - n)).units := (Int.sub_mul _ _ _).symm
  rw [fsub, hdiff, roundF_of_representable (by omega) (representable_toF hprec h)]

theorem fmul_toF (h : (m * n).natAbs ≤ 2 ^ 24) : fmul fmt (toF fmt m) (toF fmt n) = toF fmt (m * n) := by
  have hprod : (toF fmt m).units * (toF fmt n).units = (toF fmt (m * n)).units * unitOne fmt := by
    simp only [toF]
    ring
  rw [fmul, hprod, roundF_mul_of_representable (by omega) (unitOne_pos fmt) (representable_toF hprec h)]

/-- The square of the difference of two bytes in `F`. -/
theorem squaredDiff_toF (a b : Byte) :
    fmul fmt (fsub fmt (toF fmt a.toNat) (toF fmt b.toNat)) (fsub fmt (toF fmt a.toNat) (toF fmt b.toNat)) =
      toF fmt (squaredDiff a b) := by
  have hle := squaredDiff_le a b
  rw [fsub_toF hprec (by omega), fmul_toF hprec (by rw [← pow_two, ← squaredDiff_eq]; omega), squaredDiff_eq, pow_two]

theorem distF_toF (p e : Rgb) :
    distF fmt ⟨toF fmt p.r.toNat, toF fmt p.g.toNat, toF fmt p.b.toNat⟩ e = toF fmt (distInt p e) := by
  have hr := squaredDiff_le p.r e.r
  have hg := squaredDiff_le p.g e.g
  have hb := squaredDiff_le p.b e.b
  simp only [distF, colorDiff, squaredDiff_toF hprec]
  rw [fadd_toF hprec (by omega), fadd_toF hprec (by omega)]
  simp only [distInt, Nat.cast_add]

end

theorem flt_toF (fmt : FFormat) (m n : Int) : flt (toF fmt m) (toF fmt n) = decide (m < n) :=
  decide_eq_decide.2 (Int.mul_lt_mul_right (Int.natCast_pos.2 (unitOne_pos fmt)))

section
variable {α β : Type} {lt : α → α → Bool} {lt' : β → β → Bool} {f : α → β}
  (hf : ∀ d e, lt' (f d) (f e) = lt d e)
include hf

/-- The matcher's loop sees the order of the distances alone. -/
theorem nearestFrom_map (ds : List α) (j best : Nat) (bestd : α) :
    nearestFrom lt' (ds.map f) j best (f bestd) = nearestFrom lt ds j best bestd := by
  induction ds generalizing j best bestd with
  | nil => rfl
  | cons d ds ih => simp only [List.map_cons, nearestFrom, hf, ih]

theorem nearest_map (ds : List α) : nearest lt' (ds.map f) = nearest lt ds := by
  cases ds with
  | nil => rfl
  | cons d ds => exact nearestFrom_map hf ds 1 0 d

end

/-- Settles O41: on integers the distances in `F` are the integer distances, in the same order. -/
theorem matchersAgreeOnIntegers : Obligations.MatchersAgreeOnIntegers := by
  unfold Obligations.MatchersAgreeOnIntegers
  intro fmt pal p hprec
  have hdist : pal.map (distF fmt ⟨toF fmt p.r.toNat, toF fmt p.g.toNat, toF fmt p.b.toNat⟩) =
      (pal.map (distInt p)).map fun d : Nat => toF fmt d := by
    rw [List.map_map]
    exact List.map_congr_left fun e _ => distF_toF hprec p e
  rw [matchF, hdist, matchInt]
  exact nearest_map (fun d e => by rw [flt_toF, decide_eq_decide, Int.ofNat_lt]) _

/-! ## What a visited pixel gets (44_color_error_diffusion.md R181, R183) -/

/-- The entry `match_F` answers is the first of those at least distance. -/
theorem matchF_isFirstLeast {pal : List Rgb} (hpal : 0 < pal.length) (fmt : FFormat) (v : ColorVal) :
    isFirstLeast (fun e => (distF fmt v e).units) pal (matchF fmt pal v) := by
  have h := nearest_isFirstLeast (key := FVal.units) (lt := flt) (fun _ _ => decide_eq_true_iff)
    (ds := pal.map (distF fmt v)) (by rwa [List.length_map])
  simpa [isFirstLeast, matchF] using h

/-- The error of a pixel with working values `v`: against the entry the matcher chooses. -/
def chosenError (fmt : FFormat) (pal : List Rgb) (v : ColorVal) : ColorVal :=
  colorDiff fmt v (pal.getD (matchF fmt pal v) ⟨0, 0, 0⟩)

theorem chosenError_of_lt {fmt : FFormat} {pal : List Rgb} {v : ColorVal} (hj : matchF fmt pal v < pal.length) :
    chosenError fmt pal v = colorDiff fmt v pal[matchF fmt pal v] := by
  simp [chosenError, hj]

/-! ## A color pass, seen from the pixel that receives the error (44_color_error_diffusion.md R182) -/

section
variable (fmt : FFormat) (k : Kernel) (w h : Nat)

/-- One plane of the working buffer once the pixels of `visited` have diffused their errors, pixel `i` the error `err i`. -/
def planeAfter (err : Nat → FVal) (visited : List ScanPos) (wb : List FVal) : List FVal :=
  visited.foldl (fun wb p => diffuse fmt k w h p (err (p.index w)) wb) wb

/-- A plane element by element: its seed and what the visited pixels have sent it. -/
theorem planeAfter_getElem? (err : Nat → FVal) (visited : List ScanPos) (wb : List FVal) (j : Nat) :
    (planeAfter fmt k w h err visited wb)[j]? = wb[j]?.map (pulledValue fmt k w h err visited j) := by
  induction visited generalizing wb with
  | nil => exact Option.map_id'.symm
  | cons p visited ih =>
    refine (ih (diffuse fmt k w h p (err (p.index w)) wb)).trans ?_
    rw [diffuse_getElem?, Option.map_map]
    rfl

variable (pal : List Rgb)

/-- The working buffer of a color pass once the pixels of `visited` have diffused their errors. -/
def planesAfter (visited : List ScanPos) (wb : Planes) : Planes :=
  visited.foldl (fun wb p => diffuseColor fmt k w h p (chosenError fmt pal (wb.at fmt (p.index w))) wb) wb

/-- The working values with which a color pass over `scan` visits pixel `i`. -/
def colorAt (scan : List ScanPos) (wb : Planes) (i : Nat) : ColorVal :=
  (planesAfter fmt k w h pal (scan.takeWhile fun p => decide (p.index w ≠ i)) wb).at fmt i

/-- A color pass goes on from where it is with the buffer it has. -/
theorem colorPass_append (src : List Rgba) (before after : List ScanPos) (wb : Planes) :
    colorPass fmt k w h pal src (before ++ after) wb =
      colorPass fmt k w h pal src before wb ++
        colorPass fmt k w h pal src after (planesAfter fmt k w h pal before wb) := by
  induction before generalizing wb with
  | nil => rfl
  | cons p before ih => exact congrArg _ (ih _)

/-- Each channel diffuses its own error on its own plane. -/
theorem planesAfter_eq {err : Nat → ColorVal} {visited : List ScanPos} {wb : Planes}
    (herr : ∀ before p after, visited = before ++ p :: after →
      err (p.index w) = chosenError fmt pal ((planesAfter fmt k w h pal before wb).at fmt (p.index w))) :
    planesAfter fmt k w h pal visited wb =
      ⟨planeAfter fmt k w h (fun i => (err i).r) visited wb.r, planeAfter fmt k w h (fun i => (err i).g) visited wb.g,
        planeAfter fmt k w h (fun i => (err i).b) visited wb.b⟩ := by
  induction visited generalizing wb with
  | nil => rfl
  | cons p visited ih =>
    have hp : err (p.index w) = chosenError fmt pal (wb.at fmt (p.index w)) := herr [] p visited rfl
    refine (ih fun before q after hsplit => herr (p :: before) q after (congrArg (p :: ·) hsplit)).trans ?_
    simp only [← hp]
    rfl

/-- The working values of pixel `j`, channel by channel: its pre-inverted colour `c` and what the pixels of `before` have
sent it. -/
def pulledColor (err : Nat → ColorVal) (before : List ScanPos) (j : Nat) (preinv : Bool) (c : Rgb) : ColorVal where
  r := pulledValue fmt k w h (fun i => (err i).r) before j (toF fmt (pre preinv c.r).toNat)
  g := pulledValue fmt k w h (fun i => (err i).g) before j (toF fmt (pre preinv c.g).toNat)
  b := pulledValue fmt k w h (fun i => (err i).b) before j (toF fmt (pre preinv c.b).toNat)

variable {fmt k w h pal}

/-- A color pass over a scan that visits each pixel once: the working values of every visited pixel are the pulled ones, and
the pixel is emitted with the entry the matcher chooses for them. -/
theorem colorPass_pulled {scan : List ScanPos} {src : List Rgba} {preinv : Bool}
    (hscan : (scan.map (ScanPos.index w)).Perm (List.range src.length)) :
    ∃ val : Nat → ColorVal, ∀ before p after, scan = before ++ p :: after →
      ∃ hin : p.index w < src.length,
        val (p.index w) = pulledColor fmt k w h (fun i => chosenError fmt pal (val i)) before (p.index w) preinv
          src[p.index w].rgb ∧
        (p.index w, paletteOut pal (matchF fmt pal (val (p.index w))) src[p.index w].a) ∈
          colorPass fmt k w h pal src scan (seedColor fmt preinv src) := by
  have hone : (scan.map (ScanPos.index w)).Nodup := hscan.nodup_iff.2 List.nodup_range
  have hval : ∀ before p after, scan = before ++ p :: after →
      colorAt fmt k w h pal scan (seedColor fmt preinv src) (p.index w) =
        (planesAfter fmt k w h pal before (seedColor fmt preinv src)).at fmt (p.index w) := by
    rintro before p after rfl
    rw [colorAt, takeWhile_index_ne hone]
  refine ⟨colorAt fmt k w h pal scan (seedColor fmt preinv src), fun before p after hsplit => ?_⟩
  have hin : p.index w < src.length := by
    refine List.mem_range.1 (hscan.mem_iff.1 (List.mem_map_of_mem ?_))
    rw [hsplit]
    exact List.mem_append_right _ List.mem_cons_self
  refine ⟨hin, ?_, ?_⟩
  · have hplanes := planesAfter_eq fmt k w h pal (visited := before)
      (err := fun i => chosenError fmt pal (colorAt fmt k w h pal scan (seedColor fmt preinv src) i))
      (fun b q a hb => congrArg (chosenError fmt pal) (hval b q (a ++ p :: after) (by simp [hsplit, hb])))
    rw [hval before p after hsplit, hplanes]
    simp [Planes.at, planeAfter_getElem?, pulledColor, seedColor, hin]
  · rw [hval before p after hsplit, hsplit, colorPass_append]
    refine List.mem_append_right _ ?_
    simp [colorPass, hin]

end

/-! ## `QPAL` with a kernel (44_color_error_diffusion.md R183) -/

section
variable {npal : Nat} {preinv : Bool} {p : Instr × KernelId} (hp : p ∈ qpalCommands npal preinv)
include hp

theorem exec_of_mem_qpalCommands (s : State) : exec p.1 s = s.qpal p.2 npal preinv := by
  fin_cases hp <;> rfl

theorem commandKind_of_mem_qpalCommands : commandKind p.1 = .palette npal := by
  fin_cases hp <;> rfl

end

/-- Settles O40: the working values are those of the pass, and each pixel holds the entry that `matchF` answers for them, the
first of those at least distance. -/
theorem qpalDiffusesInSerpentineOrder : Obligations.QpalDiffusesInSerpentineOrder := by
  unfold Obligations.QpalDiffusesInSerpentineOrder
  refine ⟨fun c => decodeWord_of_opField_six, fun npal preinv s p hp hi hwf hfits hsrc hpal => ?_⟩
  have hkind := commandKind_of_mem_qpalCommands hp
  obtain ⟨t, src, pal, ht, hgrid, hlen, hentry, hpixel⟩ := State.quantizePalette_pixels
    (fun src pal _ => colorDiffusion_emitsGrid s.cfg p.2 preinv s.gridW s.gridH src pal) hwf hfits hsrc hpal
  have hexec : exec p.1 s = .next t := (exec_of_mem_qpalCommands hp s).trans ht
  obtain ⟨hregs, houtside⟩ := exec_palette_frame hkind hexec
  obtain ⟨hsrcLen, hsrcAt⟩ := gather_range.1 hgrid
  have hscan : ((scanSerpentine s.gridW s.gridH).map (ScanPos.index s.gridW)).Perm (List.range src.length) :=
    hsrcLen ▸ scanSerpentine_indices s.gridW s.gridH
  obtain ⟨val, hval⟩ := colorPass_pulled (fmt := s.cfg.fmt) (k := s.cfg.kernels.get p.2) (h := s.gridH) (pal := pal)
    (preinv := preinv) hscan
  refine ⟨t, fun i => (val i).r, fun i => (val i).g, fun i => (val i).b,
    fun i => (chosenError s.cfg.fmt pal (val i)).r, fun i => (chosenError s.cfg.fmt pal (val i)).g,
    fun i => (chosenError s.cfg.fmt pal (val i)).b, pal, hexec, hregs, houtside, hlen,
    fun j hj => Memory.rgbAt_eq_some.1 (hentry j hj), fun before pos after hsplit => ?_⟩
  obtain ⟨hin, hpulled, hmem⟩ := hval before pos after hsplit
  generalize pos.index s.gridW = i at hin hpulled hmem ⊢
  obtain ⟨hrgb, ha⟩ := Memory.rgbaAt_eq_some.1 (hsrcAt i hin)
  obtain ⟨hr, hg, hb⟩ := Memory.rgbAt_eq_some.1 hrgb
  have hpos : 0 < pal.length := hlen ▸ npal_pos_of_wf hi hkind
  obtain ⟨hj, hfirst⟩ := matchF_isFirstLeast hpos s.cfg.fmt (val i)
  have hheld := hpixel i (hsrcLen ▸ hin) _ hmem
  rw [paletteOut_of_lt hj] at hheld
  have herr := chosenError_of_lt hj
  simp only [pulledColor, pre_toNat] at hpulled
  refine ⟨i, _, _, _, _, _, hj, distF s.cfg.fmt (val i), rfl, hr, hg, hb, ha, congrArg ColorVal.r hpulled,
    congrArg ColorVal.g hpulled, congrArg ColorVal.b hpulled, ?_,
    fun k hk => decide_eq_false (Int.not_lt.2 (hfirst k hk).1), fun k hk hkj => decide_eq_true ((hfirst k hk).2 hkj),
    congrArg ColorVal.r herr, congrArg ColorVal.g herr, congrArg ColorVal.b herr, hheld⟩
  rintro e _ _ _ rfl rfl rfl
  rfl

end Sys2Proof.Machine
end

section
/-! PROOFS. The statements of 45_bit_packers.md. The four packers are one scheme, `packRows`, with their own number of
pixels a byte, field of a sample and place of a field; what a byte of a row holds is proved of the scheme. -/

namespace Sys2Proof.Machine

/-! ## Bits of a byte after a fold of or-ed values -/

/-- A byte of the buffer after a fold has the bits it had and those of every value or-ed into it. -/
theorem orFold_getLsbD (f : ScanPos → Nat) (g : ScanPos → Byte) (scan : List ScanPos) {buf : List Byte} {j : Nat}
    {old : Byte} (hold : buf[j]? = some old) :
    ∃ new : Byte, (scan.foldl (fun buf p => orByte buf (f p) (g p)) buf)[j]? = some new ∧
      ∀ n, new.getLsbD n = true ↔ old.getLsbD n = true ∨ ∃ p ∈ scan, f p = j ∧ (g p).getLsbD n = true := by
  induction scan generalizing buf old with
  | nil => exact ⟨old, hold, by simp⟩
  | cons p scan ih =>
    by_cases hp : f p = j
    · have hnext : (orByte buf (f p) (g p))[j]? = some (old ||| g p) := by
        rw [orByte_getElem?, if_pos hp, hold, Option.map_some]
      obtain ⟨new, hnew, hbits⟩ := ih hnext
      exact ⟨new, hnew, fun n => by simp [hbits, hp, or_assoc]⟩
    · have hnext : (orByte buf (f p) (g p))[j]? = some old := by rw [orByte_getElem?, if_neg hp, hold]
      obtain ⟨new, hnew, hbits⟩ := ih hnext
      exact ⟨new, hnew, fun n => by simp [hbits, hp]⟩

/-! ## The scheme of the packers (45_bit_packers.md R201) -/

/-- Where the slots of a byte lie, fields of `d` bits from the most significant end on: slot `slot` has its lowest bit at
`lo slot`. -/
def slotsFromTop (per d : Nat) (lo : Nat → Nat) : Prop := ∀ slot < per, lo slot + d * (slot + 1) = 8

/-- A packer of `per` pixels a byte that puts `field` of each sample at the slot of its pixel. -/
def packRows {d : Nat} (per : Nat) (lo : Nat → Nat) (field : Byte → BitVec d) (w h : Nat) (samples : List Byte) :
    List Byte :=
  (scanRaster w h).foldl
    (fun buf p => orByte buf (p.y * ceilDiv w per + p.x / per)
      ((field (samples.getD (p.index w) 0)).setWidth 8 <<< lo (p.x % per)))
    (List.replicate (ceilDiv w per * h) 0)

theorem div_lt_ceilDiv {x w per : Nat} (hper : 0 < per) (hx : x < w) : x / per < ceilDiv w per := by
  rw [Nat.lt_iff_add_one_le, ← Nat.add_div_right x hper]
  exact Nat.div_le_div_right (by omega)

theorem ceilDiv_le {per : Nat} (w : Nat) (hper : 0 < per) : ceilDiv w per ≤ w := by
  have hscale := Nat.le_mul_of_pos_right w hper
  rw [← Nat.lt_succ_iff, ceilDiv, Nat.div_lt_iff_lt_mul hper, Nat.succ_mul]
  omega

/-- A byte number says its row and its place in the row. -/
theorem row_eq_of_byte_eq {q y y' b b' : Nat} (hb : b < q) (hb' : b' < q) (h : y' * q + b' = y * q + b) :
    y' = y ∧ b' = b := by
  have hplace : b' = b := by rw [← Nat.mul_add_mod_of_lt (a := y') hb', h, Nat.mul_add_mod_of_lt hb]
  exact ⟨Nat.eq_of_mul_eq_mul_right (Nat.zero_lt_of_lt hb) (by omega), hplace⟩

/-- The raster scan visits every pixel. -/
theorem mem_scanRaster {w h x y : Nat} (hx : x < w) (hy : y < h) : ⟨x, y, 1⟩ ∈ scanRaster w h := by
  rw [scanRaster_eq]
  exact List.mem_of_getElem? (scanBy_getElem? (fun _ => 1) hy hx)

@[simp] theorem packRows_length {d : Nat} (per : Nat) (lo : Nat → Nat) (field : Byte → BitVec d) (w h : Nat)
    (samples : List Byte) : (packRows per lo field w h samples).length = ceilDiv w per * h := by
  simp [packRows, orFold_length]

section
variable {per d : Nat} {lo : Nat → Nat} (hlo : slotsFromTop per d lo)
include hlo

/-- A slot lies inside the byte. -/
theorem slotsFromTop.lo_add_le {slot : Nat} (hslot : slot < per) : lo slot + d ≤ 8 := by
  have hat := hlo slot hslot
  have := Nat.le_mul_of_pos_right d (Nat.succ_pos slot)
  rw [Nat.succ_eq_add_one] at this
  omega

/-- Of two slots the later one lies below the other. -/
theorem slotsFromTop.lo_add_le_lo {a b : Nat} (hab : a < b) (hb : b < per) : lo b + d ≤ lo a := by
  have ha := hlo a (hab.trans hb)
  have hb := hlo b hb
  have : d * (a + 1) + d ≤ d * (b + 1) := Nat.mul_le_mul_left d (Nat.succ_le_succ hab)
  omega

/-- A field put at a slot has its bits there, and none at another slot. -/
theorem slotsFromTop.getLsbD_put {slot slot' i : Nat} (hslot : slot < per) (hslot' : slot' < per) (hi : i < d)
    (u : BitVec d) : (u.setWidth 8 <<< lo slot').getLsbD (lo slot + i) = (decide (slot' = slot) && u.getLsbD i) := by
  have hbyte := hlo.lo_add_le hslot
  rcases Nat.lt_trichotomy slot' slot with hlt | rfl | hgt
  · have hbelow := hlo.lo_add_le_lo hlt hslot
    simp [show lo slot + i < lo slot' by omega, hlt.ne]
  · simp [show lo slot' + i < 8 by omega]
  · have habove := hlo.lo_add_le_lo hgt hslot'
    simp [hgt.ne', BitVec.getLsbD_of_ge u (lo slot + i - lo slot') (by omega)]

/-- Slot `slot` of byte `b` of row `y` is the field of pixel `per * b + slot` of the row, and 0 past the row's end. -/
theorem slotsFromTop.packRows_slot (field : Byte → BitVec d) {w h y b : Nat} (samples : List Byte) (hy : y < h)
    (hb : b < ceilDiv w per) :
    ∃ byte : Byte, (packRows per lo field w h samples)[y * ceilDiv w per + b]? = some byte ∧
      ∀ slot < per, byte.extractLsb' (lo slot) d =
        if per * b + slot < w then field (samples.getD (y * w + (per * b + slot)) 0) else 0 := by
  have hj : y * ceilDiv w per + b < ceilDiv w per * h := ScanPos.index_lt (p := ⟨b, y, 1⟩) ⟨hb, hy⟩
  obtain ⟨byte, hbyte, hbits⟩ := orFold_getLsbD (fun p => p.y * ceilDiv w per + p.x / per)
    (fun p => (field (samples.getD (p.index w) 0)).setWidth 8 <<< lo (p.x % per)) (scanRaster w h)
    (List.getElem?_replicate_of_lt hj)
  refine ⟨byte, hbyte, fun slot hslot => BitVec.eq_of_getLsbD_eq fun i hi => ?_⟩
  have hper : 0 < per := Nat.zero_lt_of_lt hslot
  rw [BitVec.getLsbD_extractLsb', decide_eq_true hi, Bool.true_and, Bool.eq_iff_iff, hbits]
  constructor
  · rintro (hzero | ⟨p, hp, hrow, hbit⟩)
    · simp at hzero
    · obtain ⟨hx, -⟩ := scanRaster_bounds hp
      rw [hlo.getLsbD_put hslot (Nat.mod_lt _ hper) hi, Bool.and_eq_true, decide_eq_true_eq] at hbit
      obtain ⟨rfl, rfl⟩ := row_eq_of_byte_eq hb (div_lt_ceilDiv hper hx) hrow
      obtain ⟨rfl, hbit⟩ := hbit
      rw [Nat.div_add_mod, if_pos hx]
      exact hbit
  · intro hbit
    split_ifs at hbit with hx
    · refine .inr ⟨⟨per * b + slot, y, 1⟩, mem_scanRaster hx hy, ?_, ?_⟩
      · simp only [Nat.mul_add_div hper, Nat.div_eq_of_lt hslot, Nat.add_zero]
      · rw [hlo.getLsbD_put hslot (Nat.mod_lt _ hper) hi, Nat.mul_add_mod, Nat.mod_eq_of_lt hslot]
        simpa [ScanPos.index] using hbit
    · simp at hbit

end

/-! ## A packer's answer (45_bit_packers.md R201, R206) -/

/-- A packer changes the packed bytes and the metadata alone. -/
theorem State.storePacked_frame {s : State} {bpr : Nat} {buf : List Byte} (n : BitVec 3) (hwf : s.cfg.wf = true)
    (hfits : s.pixels ≤ s.cfg.maxPix) (hbpr : bpr ≤ s.gridW) (hlen : buf.length = bpr * s.gridH) :
    packedFrame n bpr s (s.storePacked n bpr buf) := by
  refine ⟨rfl, ?_, fun a ha => Memory.read_writeElems_outside _ hlen ha⟩
  rw [State.storePacked_resLen, BitVec.toNat_ofNat]
  refine Nat.mod_eq_of_lt ?_
  calc bpr * s.gridH ≤ s.pixels := Nat.mul_le_mul_right _ hbpr
    _ ≤ s.cfg.maxPix := hfits
    _ ≤ 4194304 := Config.maxPix_le hwf
    _ < 2 ^ 32 := by decide

/-- A command that packs the samples at the addresses `addr`, by the scheme: it answers, with the frame of a packer, and
every slot of every packed byte holds the field of its pixel's sample, or 0 where the row has no pixel. -/
theorem slotsFromTop.exec_packs {per d : Nat} {lo : Nat → Nat} {field : Byte → BitVec d} {addr : Nat → Nat}
    {n : BitVec 3} {i : Instr} {s : State} (hlo : slotsFromTop per d lo) (hper : 0 < per)
    (hexec : exec i s = s.withInput (gather (fun k => s.mem.read (addr k)) (List.range s.pixels)) fun samples =>
      .next (s.storePacked n (ceilDiv s.gridW per) (packRows per lo field s.gridW s.gridH samples)))
    (hwf : s.cfg.wf = true) (hfits : s.pixels ≤ s.cfg.maxPix) (hwritten : s.written ((List.range s.pixels).map addr)) :
    ∃ t, exec i s = .next t ∧ packedFrame n (ceilDiv s.gridW per) s t ∧
      ∀ y < s.gridH, ∀ b < ceilDiv s.gridW per, ∃ byte : Byte,
        t.mem.read (elemAddr .pbuf (y * ceilDiv s.gridW per + b)) = some byte ∧
        ∀ slot < per,
          (per * b + slot < s.gridW → ∀ v, s.mem.read (addr (y * s.gridW + (per * b + slot))) = some v →
            byte.extractLsb' (lo slot) d = field v) ∧
          (s.gridW ≤ per * b + slot → byte.extractLsb' (lo slot) d = 0) := by
  obtain ⟨samples, hsamples⟩ := Option.isSome_iff_exists.1 (gather_isSome.2 fun k hk =>
    hwritten _ (List.mem_map_of_mem hk) : (gather (fun k => s.mem.read (addr k)) (List.range s.pixels)).isSome)
  obtain ⟨hlen, hread⟩ := gather_range.1 hsamples
  refine ⟨_, hexec.trans (State.withInput_next.2 ⟨s.gridFits_iff.2 hfits, samples, hsamples, rfl⟩),
    State.storePacked_frame n hwf hfits (ceilDiv_le _ hper) (packRows_length _ _ _ _ _ _), fun y hy b hb => ?_⟩
  obtain ⟨byte, hbyte, hslots⟩ := hlo.packRows_slot field samples hy hb
  obtain ⟨hj, hat⟩ := List.getElem?_eq_some_iff.1 hbyte
  refine ⟨byte, ?_, fun slot hslot => ⟨fun hx v hv => ?_, fun hx => ?_⟩⟩
  · rw [State.storePacked_mem, Memory.read_writeElems_inside _ _ hj, hat]
  · have hk : y * s.gridW + (per * b + slot) < samples.length :=
      hlen ▸ ScanPos.index_lt (p := ⟨per * b + slot, y, 1⟩) ⟨hx, hy⟩
    have hsample := Option.some.inj ((hread _ hk).symm.trans hv)
    rw [hslots slot hslot, if_pos hx, List.getD_eq_getElem _ _ hk, hsample]
  · rw [hslots slot hslot, if_neg (Nat.not_lt.2 hx)]

/-! ## Fields of a sample -/

/-- A mask of `d` ones keeps the low `d` bits. -/
theorem and_lowMask {mask : Byte} {d : Nat} (hmask : mask.toNat = 2 ^ d - 1) (v : Byte) :
    v &&& mask = (v.extractLsb' 0 d).setWidth 8 := by
  refine BitVec.eq_of_toNat_eq ?_
  have hlow : v.toNat % 2 ^ d < 2 ^ 8 := (Nat.mod_le _ _).trans_lt v.isLt
  rw [BitVec.toNat_and, hmask, Nat.and_two_pow_sub_one_eq_mod, BitVec.toNat_setWidth, BitVec.extractLsb'_toNat,
    Nat.shiftRight_zero, Nat.mod_eq_of_lt hlow]

/-! ## `PACK1` (45_bit_packers.md R202) -/

/-- A word with `OP` 8 is `PACK1`, whatever its other bits outside `INV` (30_encoding.md R92, R98). -/
theorem decodeWord_of_opField_eight {c : Word} (h : opField c = 8) : decodeWord c = .pack1 (invField c) := by
  simp [decodeWord, h]

/-- The bit a pixel packs as: dark is 1, `INV` swaps light and dark. -/
def darkBit (inv : Bool) (v : Byte) : BitVec 1 := BitVec.ofBool !(xor (v.getLsbD 0) inv)

theorem bit1_eq (inv : Bool) (v : Byte) : bit1 inv v = (darkBit inv v).setWidth 8 := by
  have hlow : v &&& 1 = (BitVec.ofBool (v.getLsbD 0)).setWidth 8 := BitVec.and_one_eq_setWidth_ofBool_getLsbD
  rw [bit1, darkBit, hlow]
  cases v.getLsbD 0 <;> cases inv <;> rfl

theorem pack1_eq (inv : Bool) (w h : Nat) (idx : List Byte) :
    pack1 inv w h idx = packRows 8 (fun slot => 7 - slot) (darkBit inv) w h idx := by
  simp only [pack1, bit1_eq]
  rfl

theorem slotsFromTop_bits : slotsFromTop 8 1 fun slot => 7 - slot := by
  intro slot hslot
  dsimp only
  omega

/-- Settles O42: `PACK1` is the scheme with one bit a pixel. -/
theorem pack1PutsOneBitPerPixel : Obligations.Pack1PutsOneBitPerPixel := by
  unfold Obligations.Pack1PutsOneBitPerPixel
  refine ⟨fun c => decodeWord_of_opField_eight, fun inv s hwf hfits hwritten => ?_⟩
  obtain ⟨t, ht, hframe, hbytes⟩ := slotsFromTop_bits.exec_packs (i := .pack1 inv) (s := s) (n := 1)
    (field := darkBit inv) (by decide) (by simp only [← pack1_eq]; rfl) hwf hfits hwritten
  refine ⟨t, ht, hframe, fun y hy b hb => ?_⟩
  obtain ⟨byte, hbyte, hslots⟩ := hbytes y hy b hb
  refine ⟨byte, hbyte, fun slot hslot => ?_⟩
  obtain ⟨hpixel, hpad⟩ := hslots slot hslot
  refine ⟨fun hx v hv => ?_, fun hx => ?_⟩
  · simpa [darkBit] using congrArg (BitVec.getLsbD · 0) (hpixel hx v hv)
  · simpa using congrArg (BitVec.getLsbD · 0) (hpad hx)

/-! ## `PACK2` (45_bit_packers.md R203) -/

/-- A word with `OP` 9 is `PACK2`, whatever its other bits (30_encoding.md R92, R98). -/
theorem decodeWord_of_opField_nine {c : Word} (h : opField c = 9) : decodeWord c = .pack2 := by
  simp [decodeWord, h]

/-- The two bits a pixel packs as. -/
def lowTwo (v : Byte) : BitVec 2 := v.extractLsb' 0 2

theorem pack2_eq (w h : Nat) (idx : List Byte) :
    pack2 w h idx = packRows 4 (fun slot => 6 - 2 * slot) lowTwo w h idx := by
  simp only [pack2, and_lowMask (d := 2) (mask := 3) rfl]
  rfl

theorem slotsFromTop_pairs : slotsFromTop 4 2 fun slot => 6 - 2 * slot := by
  intro slot hslot
  dsimp only
  omega

/-- Settles O43: `PACK2` is the scheme with two bits a pixel. -/
theorem pack2PutsTwoBitsPerPixel : Obligations.Pack2PutsTwoBitsPerPixel := by
  unfold Obligations.Pack2PutsTwoBitsPerPixel
  refine ⟨fun c => decodeWord_of_opField_nine, fun s hwf hfits hwritten => ?_⟩
  exact slotsFromTop_pairs.exec_packs (i := .pack2) (s := s) (n := 2) (field := lowTwo) (by decide)
    (by simp only [← pack2_eq]; rfl) hwf hfits hwritten

/-! ## Nibbles (45_bit_packers.md R204, R205) -/

theorem slotsFromTop_nibbles : slotsFromTop 2 4 fun slot => 4 - 4 * slot := by
  intro slot hslot
  dsimp only
  omega

/-- The even pixel of a byte has the high nibble. -/
theorem nibble_place (x : Nat) (u : Byte) : (if x % 2 = 0 then u <<< 4 else u) = u <<< (4 - 4 * (x % 2)) := by
  rcases Nat.mod_two_eq_zero_or_one x with hx | hx <;> simp [hx]

/-! ## `PACK3` (45_bit_packers.md R204) -/

/-- A word with `OP` 10 is `PACK3`, whatever its other bits (30_encoding.md R92, R98). -/
theorem decodeWord_of_opField_ten {c : Word} (h : opField c = 10) : decodeWord c = .pack3 := by
  simp [decodeWord, h]

/-- The nibble an index packs as. -/
def indexNibble (v : Byte) : BitVec 4 := v.extractLsb' 0 3 ++ 0#1

theorem nibble3_eq (v : Byte) : nibble3 v = (indexNibble v).setWidth 8 := by
  rw [nibble3, indexNibble, and_lowMask (d := 3) rfl]
  generalize v.extractLsb' 0 3 = u
  revert u
  decide

theorem pack3_eq (w h : Nat) (idx : List Byte) :
    pack3 w h idx = packRows 2 (fun slot => 4 - 4 * slot) indexNibble w h idx := by
  simp only [pack3, nibble_place, nibble3_eq]
  rfl

/-- Settles O44: `PACK3` is the scheme with a nibble a pixel. -/
theorem pack3PutsANibblePerPixel : Obligations.Pack3PutsANibblePerPixel := by
  unfold Obligations.Pack3PutsANibblePerPixel
  refine ⟨fun c => decodeWord_of_opField_ten, fun s hwf hfits hwritten => ?_⟩
  exact slotsFromTop_nibbles.exec_packs (i := .pack3) (s := s) (n := 3) (field := indexNibble) (by decide)
    (by simp only [← pack3_eq]; rfl) hwf hfits hwritten

/-! ## `PACK4` (45_bit_packers.md R205) -/

/-- A word with `OP` 11 is `PACK4`, whatever its other bits outside `INV` (30_encoding.md R92, R98). -/
theorem decodeWord_of_opField_eleven {c : Word} (h : opField c = 11) : decodeWord c = .pack4 (invField c) := by
  simp [decodeWord, h]

/-- The nibble a sample packs as. -/
def sampleNibble (inv : Bool) (v : Byte) : BitVec 4 := if inv then 15 - v.extractLsb' 4 4 else v.extractLsb' 4 4

theorem nibble4_eq (inv : Bool) (v : Byte) : nibble4 inv v = (sampleNibble inv v).setWidth 8 := by
  have htop : v >>> 4 = (v.extractLsb' 4 4).setWidth 8 := by
    refine BitVec.eq_of_toNat_eq ?_
    have hv := v.isLt
    rw [BitVec.toNat_ushiftRight, BitVec.toNat_setWidth, BitVec.extractLsb'_toNat, Nat.shiftRight_eq_div_pow]
    omega
  rw [nibble4, sampleNibble, htop]
  cases inv
  · rfl
  · generalize v.extractLsb' 4 4 = u
    revert u
    decide

theorem pack4_eq (inv : Bool) (w h : Nat) (samples : List Byte) :
    pack4 inv w h samples = packRows 2 (fun slot => 4 - 4 * slot) (sampleNibble inv) w h samples := by
  simp only [pack4, nibble_place, nibble4_eq]
  rfl

/-- Settles O45: `PACK4` is the scheme with a nibble a pixel, taken from `PREV.R`. -/
theorem pack4PutsTheTopFourBits : Obligations.Pack4PutsTheTopFourBits := by
  unfold Obligations.Pack4PutsTheTopFourBits
  refine ⟨fun c => decodeWord_of_opField_eleven, fun inv s hwf hfits hwritten => ?_⟩
  exact slotsFromTop_nibbles.exec_packs (i := .pack4 inv) (s := s) (n := 4) (field := sampleNibble inv) (by decide)
    (by simp only [← pack4_eq]; rfl) hwf hfits hwritten

end Sys2Proof.Machine
end

section
/-! PROOFS. The statement of 46_pipeline_and_nop.md: `NOP`. -/

namespace Sys2Proof.Machine

/-- A word with `OP` 0 is `NOP`, whatever its other bits (30_encoding.md R92, R98). -/
theorem decodeWord_of_opField_zero {c : Word} (h : opField c = 0) : decodeWord c = .nop := by
  simp [decodeWord, h]

theorem exec_nop (s : State) : exec .nop s = .next s := rfl

/-- Settles O7: in the fault state the write is ignored, outside it `NOP` hands its state on; either way all that is left
is the completion of the write, on a bus that was idle. -/
theorem nopChangesNothing : Obligations.NopChangesNothing := by
  unfold Obligations.NopChangesNothing
  intro s c rest
  refine ⟨exec_nop s, fun hpending hop hidle => ?_⟩
  cases hfault : s.status.fault with
  | true => exact step_cmdWrite_of_fault hpending hfault
  | false =>
    rw [step_cmdWrite_of_no_fault hpending hfault, fetchCommand_eq, decodeWord_of_opField_zero hop, exec_nop,
      finishCommand, State.endCommand, ← hidle]

end Sys2Proof.Machine
end

section
/-! PROOFS. The statements of 60_exceptions.md and 70_reset_and_hazards.md: the idle engine, how the fault state
is entered and left, when a command completes, and the empty grid. -/

namespace Sys2Proof.Machine

/-! ## The idle engine (60_exceptions.md R246) -/

/-- Settles O6: with nothing pending no transaction is served. -/
theorem idleHoldsAllState : Obligations.IdleHoldsAllState := by
  unfold Obligations.IdleHoldsAllState
  intro s hpending
  rw [step, State.serveNext, hpending]

/-! ## Fault entry (60_exceptions.md R232, R233) -/

/-- `QEDN` with fewer than two levels raises its fault before it looks at the grid, whatever its kernel. -/
theorem exec_of_levels_lt {i : Instr} {l : Byte} (hkind : commandKind i = .levels l) (hl : l.toNat < 2) (s : State) :
    exec i s = .next (s.raiseFault .levelsLt2) := by
  have hop := exec_kind i s
  simp only [hkind] at hop
  obtain ⟨kernel, hop⟩ := hop
  rw [hop, State.qedn, if_pos hl]

/-- Settles O9: the word decodes to a `QEDN` command with its own `LEVELS`, which raises the fault with the word on the
bus. -/
theorem faultEntryRecordsTheWord : Obligations.FaultEntryRecordsTheWord := by
  unfold Obligations.FaultEntryRecordsTheWord
  intro s c rest hpending hfault hop hlevels
  rw [step_cmdWrite_of_no_fault hpending hfault, fetchCommand_eq, decodeWord_of_opField_five hop,
    exec_of_levels_lt (commandKind_qednOf _ _) hlevels]
  rfl

/-- The one effect that enters the fault state. -/
theorem State.Effect.levels_of_fault {s t : State} {kind : CommandKind} (h : s.Effect kind t)
    (hs : s.status.fault = false) (ht : t.status.fault = true) : ∃ l : Byte, kind = .levels l ∧ l.toNat < 2 := by
  cases h with
  | fault hl => exact ⟨_, rfl, hl⟩
  | nop | illop | samples | pixels | packed => exact absurd (hs.symm.trans ht) Bool.false_ne_true

/-- A host write that is no command leaves the fault registers as they are (60_exceptions.md R235). -/
theorem State.hostStore_faultRegisters (s : State) (a : Nat) (w : AccessWidth) (v : Word) :
    (s.hostStore a w v).status.fault = s.status.fault ∧ (s.hostStore a w v).status.cause = s.status.cause ∧
      (s.hostStore a w v).faultCmd = s.faultCmd := by
  rcases s.hostStore_cases a w v with ⟨r, -, h⟩ | ⟨-, h⟩ | ⟨-, h⟩ <;> rw [h]
  · obtain ⟨wd, ht, m, st, hreg, hfault, hcause⟩ := s.writeReg_eq r v
    rw [hreg]
    exact ⟨hfault, hcause, rfl⟩
  · exact ⟨rfl, rfl, rfl⟩
  · exact ⟨rfl, rfl, rfl⟩

/-- A step that enters the fault state is a `CMD` write of a `QEDN` word with fewer than two levels. -/
theorem qedn_of_step_enters_fault {s t : State} (hs : s.status.fault = false) (h : step s = .next t)
    (ht : t.status.fault = true) :
    ∃ c rest, s.pending = .write 0x10 .word c :: rest ∧ opField c = 5 ∧ (imm8Field c).toNat < 2 := by
  have hkept (hst : t.status.fault = s.status.fault) : False := by simp [hst, hs] at ht
  rcases step_cases h with ⟨-, rfl⟩ | ⟨op, rest, hpending, hop⟩
  · exact (hkept rfl).elim
  rcases hop with ⟨a, w, -, hread⟩ | ⟨c, -, hin, -⟩ | ⟨c, u, rfl, -, hexec, rfl⟩ | ⟨a, w, v, -, -, rfl⟩ | ⟨-, rfl⟩
  · obtain ⟨r, rfl⟩ := State.hostRead_next hread
    exact (hkept rfl).elim
  · exact absurd (hs.symm.trans hin) Bool.false_ne_true
  · obtain ⟨l, hkind, hl⟩ := (exec_effect hexec).levels_of_fault hs ht
    obtain ⟨hcode, rfl⟩ := fields_of_levels hkind
    exact ⟨c, rest, hpending, hcode, hl⟩
  · exact (hkept (State.hostStore_faultRegisters _ a w v).1).elim
  · cases ht

/-- Settles O10: a step that enters the fault state writes such a word, and what that write does is
`faultEntryRecordsTheWord`. -/
theorem faultExactlyOnQednFewLevels : Obligations.FaultExactlyOnQednFewLevels := by
  unfold Obligations.FaultExactlyOnQednFewLevels
  intro s hs
  refine ⟨⟨fun ⟨t, h, ht⟩ => qedn_of_step_enters_fault hs h ht, ?_⟩, fun t h ht => ?_⟩
  · rintro ⟨c, rest, hpending, hop, hlevels⟩
    exact ⟨_, faultEntryRecordsTheWord s c rest hpending hs hop hlevels, rfl⟩
  · obtain ⟨c, rest, hpending, hop, hlevels⟩ := qedn_of_step_enters_fault hs h ht
    rw [faultEntryRecordsTheWord s c rest hpending hs hop hlevels] at h
    cases h
    rfl

/-! ## Leaving the fault state (60_exceptions.md R234, R235) -/

/-- Settles O11, by the kinds of step: in the fault state no command runs. -/
theorem faultStateLeftOnlyByReset : Obligations.FaultStateLeftOnlyByReset := by
  unfold Obligations.FaultStateLeftOnlyByReset
  intro s t hs h
  refine ⟨fun rest hpending => ?_, fun hreset => ?_⟩
  · rw [step_of_pending hpending, State.serve] at h
    cases h
    rfl
  rcases step_cases h with ⟨-, rfl⟩ | ⟨op, rest, hpending, hop⟩
  · exact ⟨hs, rfl, rfl⟩
  rcases hop with ⟨a, w, -, hread⟩ | ⟨c, -, -, rfl⟩ | ⟨c, u, -, hout, -⟩ | ⟨a, w, v, -, -, rfl⟩ | ⟨rfl, -⟩
  · obtain ⟨r, rfl⟩ := State.hostRead_next hread
    exact ⟨hs, rfl, rfl⟩
  · exact ⟨hs, rfl, rfl⟩
  · exact absurd (hout.symm.trans hs) Bool.false_ne_true
  · obtain ⟨hfault, hcause, hcmd⟩ := State.hostStore_faultRegisters { s with pending := rest } a w v
    exact ⟨hfault.trans hs, hcause, hcmd⟩
  · exact absurd hpending (hreset rest)

/-! ## Inputs that have been written (70_reset_and_hazards.md R265) -/

theorem Memory.rgbAt_isSome_iff {m : Memory} {w : Window} {i : Nat} :
    (m.rgbAt w i).isSome ↔ ∀ c < 3, (m.read (chanAddr w i c)).isSome := by
  refine ⟨fun h c hc => ?_, Memory.rgbAt_isSome⟩
  obtain ⟨p, hp⟩ := Option.isSome_iff_exists.1 h
  obtain ⟨hr, hg, hb⟩ := Memory.rgbAt_eq_some.1 hp
  interval_cases c
  · exact Option.isSome_of_eq_some hr
  · exact Option.isSome_of_eq_some hg
  · exact Option.isSome_of_eq_some hb

theorem Memory.rgbaAt_isSome_iff {m : Memory} {w : Window} {i : Nat} :
    (m.rgbaAt w i).isSome ↔ ∀ c < 4, (m.read (chanAddr w i c)).isSome := by
  have hboth : (m.rgbaAt w i).isSome ↔ (m.rgbAt w i).isSome ∧ (m.read (chanAddr w i 3)).isSome := by
    simp only [Memory.rgbaAt]
    cases m.rgbAt w i <;> cases m.read (chanAddr w i 3) <;> simp
  rw [hboth, Memory.rgbAt_isSome_iff]
  exact (Nat.forall_lt_succ_right (p := fun c => (m.read (chanAddr w i c)).isSome = true)).symm

section
variable (s : State)

theorem State.written_append (as bs : List Nat) : s.written (as ++ bs) ↔ s.written as ∧ s.written bs :=
  List.forall_mem_append

theorem State.not_written_iff (addrs : List Nat) : ¬ s.written addrs ↔ ∃ a ∈ addrs, s.mem.read a = none := by
  simp [State.written]

theorem State.written_chanAddrs (w : Window) (n c : Nat) :
    s.written (chanAddrs w n c) ↔ ∀ i ∈ List.range n, ∀ k < c, (s.mem.read (chanAddr w i k)).isSome := by
  refine ⟨fun h i hi k hk => h _ (mem_chanAddrs.2 ⟨i, List.mem_range.1 hi, k, hk, rfl⟩), fun h a ha => ?_⟩
  obtain ⟨i, hi, k, hk, rfl⟩ := mem_chanAddrs.1 ha
  exact h i (List.mem_range.2 hi) k hk

theorem State.gather_read_isSome (addr : Nat → Nat) (is : List Nat) :
    (gather (fun i => s.mem.read (addr i)) is).isSome ↔ s.written (is.map addr) := by
  rw [gather_isSome, State.written, List.forall_mem_map]

theorem State.gather_rgbAt_isSome (w : Window) (n : Nat) :
    (gather (fun i => s.mem.rgbAt w i) (List.range n)).isSome ↔ s.written (chanAddrs w n 3) := by
  rw [gather_isSome, State.written_chanAddrs]
  simp only [Memory.rgbAt_isSome_iff]

theorem State.srcGrid_isSome (n : Nat) : (s.mem.srcGrid n).isSome ↔ s.written (chanAddrs .src n 4) := by
  rw [Memory.srcGrid, gather_isSome, State.written_chanAddrs]
  simp only [Memory.rgbaAt_isSome_iff]

/-- On an empty grid no palette entry is read (log 11). -/
theorem State.palette_isSome (npal n : Nat) :
    (s.mem.palette npal n).isSome ↔ s.written (if n = 0 then [] else chanAddrs .pal npal 3) := by
  unfold Memory.palette
  split_ifs
  · simp [gather, State.written]
  · exact s.gather_rgbAt_isSome .pal npal

end

/-! ## When a grid command completes (70_reset_and_hazards.md R262 to R265) -/

/-- The answer `r` is that of a grid command on `s` which reads the bytes `reads`: once the grid fits and these bytes are
there, nothing else can stop it. -/
def State.runsOn (s : State) (reads : List Nat) (r : Result) : Prop :=
  ∃ (α : Type) (input : Option α) (run : α → State),
    r = s.withInput input (fun x => .next (run x)) ∧ (input.isSome ↔ s.written reads)

section
variable {s : State} {reads : List Nat} {r : Result} (h : s.runsOn reads r)
include h

theorem State.runsOn.next_iff : (∃ t, r = .next t) ↔ s.pixels ≤ s.cfg.maxPix ∧ s.written reads := by
  obtain ⟨α, input, run, rfl, hinput⟩ := h
  rw [← hinput, ← s.gridFits_iff, Option.isSome_iff_exists]
  simp only [State.withInput_next]
  constructor
  · rintro ⟨t, hfits, x, hx, -⟩
    exact ⟨hfits, x, hx⟩
  · rintro ⟨hfits, x, hx⟩
    exact ⟨run x, hfits, x, hx, rfl⟩

theorem State.runsOn.refused_iff : r = .refused .gridExceedsCapacity ↔ s.cfg.maxPix < s.pixels := by
  obtain ⟨α, input, run, rfl, -⟩ := h
  rw [← Nat.not_le, ← s.gridFits_iff]
  simp only [State.withInput]
  cases s.gridFits <;> cases input <;> simp

theorem State.runsOn.fault_iff :
    r = .fault .unwrittenElement ↔ s.pixels ≤ s.cfg.maxPix ∧ ∃ a ∈ reads, s.mem.read a = none := by
  obtain ⟨α, input, run, rfl, hinput⟩ := h
  rw [← State.not_written_iff, ← hinput, ← s.gridFits_iff]
  simp only [State.withInput]
  cases s.gridFits <;> cases input <;> simp

end

theorem State.quantizeGray_runsOn (s : State) (pass : List Byte → List (Nat × PixelOut)) :
    s.runsOn (elemAddrs .gray s.pixels) (s.quantizeGray pass) :=
  ⟨_, _, _, rfl, s.gather_read_isSome (elemAddr .gray) _⟩

/-- The pixels and the palette are one input: the check of the grid is the same for both. -/
theorem State.quantizePalette_runsOn (s : State) (npal : Nat) (pass : List Rgba → List Rgb → List (Nat × PixelOut)) :
    s.runsOn ((CommandKind.palette npal).reads s.pixels) (s.quantizePalette npal pass) := by
  refine ⟨List Rgba × List Rgb,
    (s.mem.srcGrid s.pixels).bind fun src => (s.mem.palette npal s.pixels).map fun pal => (src, pal),
    fun p => { s with mem := s.mem.emitAll (pass p.1 p.2) }, ?_, ?_⟩
  · simp only [State.quantizePalette, State.withInput]
    cases s.gridFits <;> cases s.mem.srcGrid s.pixels <;> cases s.mem.palette npal s.pixels <;> rfl
  · rw [CommandKind.reads, State.written_append, ← State.srcGrid_isSome, ← State.palette_isSome]
    cases s.mem.srcGrid s.pixels <;> cases s.mem.palette npal s.pixels <;> simp

/-- A command that visits the grid runs on the bytes its kind reads. -/
theorem exec_runsOn {i : Instr} (hvisits : (commandKind i).visitsGrid = true) (s : State) :
    s.runsOn ((commandKind i).reads s.pixels) (exec i s) := by
  have hop := exec_kind i s
  cases hkind : commandKind i <;> simp only [hkind] at hop hvisits ⊢
  case nop => cases hvisits
  case reserved => cases hvisits
  case tone =>
    rw [hop]
    exact ⟨_, _, _, rfl, s.gather_rgbAt_isSome .src _⟩
  case gray =>
    rcases hop with ⟨thr, hop⟩ | ⟨thr, hop⟩ | ⟨kernel, thr, hop⟩ <;> rw [hop] <;> exact s.quantizeGray_runsOn _
  case levels levels =>
    obtain ⟨kernel, hop⟩ := hop
    have hlevels : ¬ levels.toNat < 2 := Nat.not_lt.2 (of_decide_eq_true hvisits)
    rw [hop, State.qedn, if_neg hlevels, CommandKind.reads, if_neg hlevels]
    exact s.quantizeGray_runsOn _
  case palette =>
    rcases hop with ⟨preinv, hop⟩ | ⟨kernel, preinv, hop⟩ <;> rw [hop] <;> exact s.quantizePalette_runsOn _ _
  case packIndex =>
    rcases hop with ⟨-, inv, hop⟩ | ⟨-, hop⟩ | ⟨-, hop⟩ <;> rw [hop] <;>
      exact ⟨_, _, _, rfl, s.gather_read_isSome (elemAddr .idx) _⟩
  case packSample =>
    obtain ⟨inv, hop⟩ := hop
    rw [hop]
    exact ⟨_, _, _, rfl, s.gather_read_isSome (fun i => chanAddr .prev i 0) _⟩

/-- A command that does not visit the grid completes in every state (30_encoding.md R97, 42_gray_error_diffusion.md R143). -/
theorem exec_next_of_not_visitsGrid {i : Instr} (hvisits : (commandKind i).visitsGrid = false) (s : State) :
    ∃ t, exec i s = .next t := by
  have hop := exec_kind i s
  cases hkind : commandKind i <;> simp only [hkind] at hop hvisits
  case nop => exact ⟨_, hop⟩
  case reserved => exact ⟨_, hop⟩
  case levels => exact ⟨_, exec_of_levels_lt hkind (Nat.not_le.1 (of_decide_eq_false hvisits)) s⟩
  all_goals cases hvisits

/-- Settles O19: `exec_runsOn` says it for the commands that visit the grid, and the others always complete. -/
theorem commandCompletesExactlyWhenReady : Obligations.CommandCompletesExactlyWhenReady := by
  unfold Obligations.CommandCompletesExactlyWhenReady
  intro i s
  cases hvisits : (commandKind i).visitsGrid with
  | true =>
    have hrun := exec_runsOn hvisits s
    simp only [State.ready, hvisits, true_imp_iff, true_and]
    exact ⟨hrun.next_iff, hrun.refused_iff, hrun.fault_iff⟩
  | false =>
    obtain ⟨t, ht⟩ := exec_next_of_not_visitsGrid hvisits s
    simp [State.ready, hvisits, ht]

/-! ## The empty grid (70_reset_and_hazards.md R268) -/

theorem CommandKind.reads_zero (kind : CommandKind) : kind.reads 0 = [] := by
  cases kind <;> simp [CommandKind.reads, elemAddrs, chanAddrs]

section
variable {s : State} (h : s.width = 0 ∨ s.height = 0)
include h

theorem State.pixels_of_empty : s.pixels = 0 := by
  rcases h with h | h <;> simp [State.pixels, State.gridW, State.gridH, h]

/-- No packer has a byte to write: a row of no pixels takes no byte. -/
theorem State.packLength_of_empty (bpp : Nat) : bytesPerRow bpp s.gridW * s.gridH = 0 :=
  Nat.le_zero.1 ((Nat.mul_le_mul_right _ (bytesPerRow_le bpp _)).trans_eq (State.pixels_of_empty h))

/-- A command has no input to wait for. -/
theorem State.ready_of_empty (i : Instr) : s.ready i := by
  rw [State.ready, State.pixels_of_empty h, CommandKind.reads_zero]
  exact fun _ => ⟨Nat.zero_le _, List.forall_mem_nil _⟩

/-- What a packer leaves: metadata alone. -/
theorem State.storePacked_of_empty (n : BitVec 3) {buf : List Byte}
    (hlen : buf.length = bytesPerRow n.toNat s.gridW * s.gridH) :
    s.storePacked n (bytesPerRow n.toNat s.gridW) buf =
      { s with resWidth := s.width, resHeight := s.height, resBpp := n, resModeId := s.modeId, resLen := 0 } := by
  have hzero := State.packLength_of_empty h n.toNat
  obtain rfl := List.eq_nil_of_length_eq_zero (hlen.trans hzero)
  rw [State.storePacked, hzero]
  rfl

end

/-- Settles O24: every command is ready there, so it completes with the effect of its kind, whose pixels, samples and packed
bytes are none. -/
theorem emptyGridIsLegal : Obligations.EmptyGridIsLegal := by
  unfold Obligations.EmptyGridIsLegal
  intro i s hempty
  have hpixels := State.pixels_of_empty hempty
  obtain ⟨t, ht⟩ := (commandCompletesExactlyWhenReady i s).1.2 (State.ready_of_empty hempty i)
  have heff := exec_effect ht
  rw [ht]
  generalize commandKind i = kind at heff
  cases heff with
  | nop => rfl
  | illop => rfl
  | fault hl => exact (if_pos hl).mpr rfl
  | samples _ hlen =>
    obtain rfl := List.eq_nil_of_length_eq_zero (hlen.trans hpixels)
    rfl
  | @pixels _ outs hkind _ _ hstays =>
    obtain rfl : outs = [] := by
      rw [hpixels] at hstays
      exact List.map_eq_nil_iff.1 (List.eq_nil_iff_forall_not_mem.2 fun j hj => Nat.not_lt_zero _ (hstays j hj))
    cases kind <;> simp only [CommandKind.emitsPixels, Bool.false_eq_true, decide_eq_true_eq] at hkind
    case gray => rfl
    case palette => rfl
    case levels => exact (if_neg (Nat.not_lt.2 hkind)).mpr rfl
  | packed hkind _ _ hlen =>
    rw [State.storePacked_of_empty hempty _ hlen]
    cases kind <;> simp only [CommandKind.packDepth, reduceCtorEq, Option.some.injEq] at hkind
    case packIndex =>
      subst hkind
      simp only [BitVec.ofNat_toNat, BitVec.setWidth_eq]
    case packSample =>
      obtain rfl := BitVec.eq_of_toNat_eq (x := 4#3) hkind
      rfl

end Sys2Proof.Machine
end
